-- ==== Sys2Proof/Word.lean ====
section
/-!
DEFINITION. The words of the PWM value encoder (00_scope.md R9): widths only, no arithmetic of the datapath.
-/

namespace Sys2Proof

/-- A register's byte, and every other 8-bit quantity (00_scope.md R9). -/
abbrev Byte := BitVec 8

/-- A register address of the chip: 8 bits (20_memory.md R40). -/
abbrev RegAddr := BitVec 8

/-- The 32-bit command word (30_encoding.md R60). -/
abbrev CmdWord := BitVec 32

/-- A PWM value: 12 bits unsigned (00_scope.md R7, `PWM_BITS`). -/
abbrev Pwm := BitVec 12

end Sys2Proof
end

