-- ==== Sys2Proof/Config.lean ====
section
/-!
DEFINITION. Parameters: the fixed ones of 00_scope.md R7, the open ones of R8 as a record, and the free values
(what the spec leaves open), each an opaque constant that no proof can evaluate.
-/

namespace Sys2Proof

namespace Config

/-- `SERVO_BASE` (R7). -/
def servoBase : Nat := 0x08
/-- `MOTOR_BASE` (R7). -/
def motorBase : Nat := 0x28
/-- `STRIDE` (R7). -/
def stride : Nat := 4
/-- `N_SERVO` (R7). -/
def nServo : Nat := 8
/-- `DEV_ADDR`, a 7-bit I2C device address (R7). -/
def devAddr : BitVec 7 := 0x6C#7
/-- `PRESCALE_VAL` (R7). -/
def prescaleVal : Byte := 0x78#8
/-- `K_MOTOR` = 40.95 = 819/20: the numerator (R7). -/
def kMotorNum : Nat := 819
/-- `K_MOTOR`: the denominator (R7). -/
def kMotorDen : Nat := 20
/-- `K_SERVO` = 2.2755 = 4551/2000: the numerator (R7). -/
def kServoNum : Nat := 4551
/-- `K_SERVO`: the denominator (R7). -/
def kServoDen : Nat := 2000
/-- `SERVO_OFFSET` (R7). -/
def servoOffset : Nat := 102
/-- `SPEED_MIN` (R7). -/
def speedMin : Nat := 0
/-- `SPEED_MAX` (R7). -/
def speedMax : Nat := 100
/-- `ANGLE_MIN` (R7). -/
def angleMin : Nat := 0
/-- `ANGLE_MAX` (R7). -/
def angleMax : Nat := 180
/-- `MOTOR_HI_MASK` (R7), as wide as a PWM value. -/
def motorHiMask : Pwm := 0xFF#12
/-- `SERVO_HI_MASK` (R7), as wide as a PWM value. -/
def servoHiMask : Pwm := 0x01#12

/-- Free: the level of the input pin `rst` at an edge that State does not list (30_encoding.md R71; log 1). -/
opaque freeRst : Nat → Bool
/-- Free: the input pin `cmd_valid` at an edge that State does not list (log 1). -/
opaque freeCmdValid : Nat → Bool
/-- Free: the input pins `cmd` at an edge that State does not list (log 1). -/
opaque freeCmd : Nat → CmdWord
/-- Free: the input pin `wr_ready` at an edge that State does not list (log 1). -/
opaque freeWrReady : Nat → Bool
/-- Free: the input pin `wr_err` at an edge that State does not list (log 1; 93_implementation_defined.md U11). -/
opaque freeWrErr : Nat → Bool
/-- Free: the input pin `rsp_ready` at an edge that State does not list (log 1). -/
opaque freeRspReady : Nat → Bool
/-- Free: `CMDR` after a reset edge, which 10_state.md R31 calls unspecified (log 4). -/
opaque cmdrAfterReset : Nat → CmdWord
/-- Free: `RSP` after a reset edge, which 10_state.md R31 calls unspecified (log 4). -/
opaque rspAfterReset : Nat → BitVec 4
/-- Free: the byte each register of the chip holds at the first reset after power-on, which 10_state.md R31 calls
unspecified and 93_implementation_defined.md U6 and U7 "any value" (log 5). -/
opaque powerOnByte : Nat → Byte
/-- Free: whether a write withdrawn by a reset still reached the chip (70_reset_and_hazards.md R141; log 6). -/
opaque withdrawnWriteLands : Nat → Bool

/-- Open, without a default: `SWRST_REG` (R8; log 9). -/
opaque openSwrstReg : Byte
/-- Open, without a default: `SWRST_VAL` (R8; log 9). -/
opaque openSwrstVal : Byte
/-- Open, without a default: `PRESCALE_REG` (R8; log 9). -/
opaque openPrescaleReg : Byte
/-- Open, without a default: `ALLOFF_REG[i]` (R8; log 9). -/
opaque openAllOffReg : Fin 4 → Byte
/-- Open, without a default: `ALLOFF_VAL[i]` (R8; log 9). -/
opaque openAllOffVal : Fin 4 → Byte
/-- Open, without a default: `MODE_REG` (R8; log 9). -/
opaque openModeReg : Byte
/-- Open, without a default: the bits of `WAKE_VAL` other than the sleep bit (R8; log 9). -/
opaque openWakeBits : Byte
/-- Open: the position of the sleep bit in `MODE_REG` (10_state.md R29, "its bit position is not given"; log 9). -/
opaque openSleepBit : Fin 8

end Config

/-- The open parameters of 00_scope.md R8, and the position of the sleep bit that R29 leaves open. A build fixes
them once; no command changes them (R7, R28). -/
structure Config where
  /-- `N_MOTOR` -/
  nMotor      : Nat
  /-- `FRAC`, the fraction bits of the speed or angle field -/
  frac        : Nat
  /-- `SWRST_REG` -/
  swrstReg    : Byte
  /-- `SWRST_VAL` -/
  swrstVal    : Byte
  /-- `PRESCALE_REG` -/
  prescaleReg : Byte
  /-- `ALLOFF_REG[0..3]` -/
  allOffReg   : Vector Byte 4
  /-- `ALLOFF_VAL[0..3]` -/
  allOffVal   : Vector Byte 4
  /-- `MODE_REG` -/
  modeReg     : Byte
  /-- `WAKE_VAL` -/
  wakeVal     : Byte
  /-- which bit of `MODE_REG` is the sleep bit -/
  sleepBit    : Fin 8
  deriving DecidableEq, Repr

namespace Config

/-- `b` with bit `n` cleared. -/
def clearBit (b : Byte) (n : Fin 8) : Byte := b &&& ~~~(1#8 <<< n.val)

/-- The configuration of State.reset: the spec's defaults where 00_scope.md R8 gives one (`N_MOTOR` = 2,
`FRAC` = 0), else the opaque constants above. `WAKE_VAL` keeps R8's constraint "the sleep bit is clear in it". -/
def reference : Config where
  nMotor      := 2
  frac        := 0
  swrstReg    := openSwrstReg
  swrstVal    := openSwrstVal
  prescaleReg := openPrescaleReg
  allOffReg   := #v[openAllOffReg 0, openAllOffReg 1, openAllOffReg 2, openAllOffReg 3]
  allOffVal   := #v[openAllOffVal 0, openAllOffVal 1, openAllOffVal 2, openAllOffVal 3]
  modeReg     := openModeReg
  wakeVal     := clearBit openWakeBits openSleepBit
  sleepBit    := openSleepBit

end Config

end Sys2Proof
end

