-- ==== Sys2Proof/Syntax.lean ====
section
/-!
DEFINITION. The command set OEB-PWMENC (30_encoding.md R64): one constructor per row of spec/opcode_table.json.
-/

namespace Sys2Proof

/-- The seven command forms of 30_encoding.md R64, with the operands R63 assembles: `ch` is the channel number
(`chan` zero-extended), `raw` the speed or angle field read as a signed integer. The value in percent or degrees
is `raw / 2^FRAC`. Fields a form ignores (R66) are no operands. -/
inductive Instr where
  /-- INIT: `initSequence()` -/
  | init
  /-- MOTOR.OFF: `encodeMotor(ch, off, _)` -/
  | motorDirOff (ch : Nat)
  /-- MOTOR.FWD: `encodeMotor(ch, forward, raw)` -/
  | motorFwd (ch : Nat) (raw : Int)
  /-- MOTOR.REV: `encodeMotor(ch, reverse, raw)` -/
  | motorRev (ch : Nat) (raw : Int)
  /-- MOTOR.BAD: `encodeMotor(ch, t, _)` with an unrecognised direction token `t` -/
  | motorBad (ch : Nat)
  /-- SERVO: `encodeServo(ch, raw)` -/
  | servo (ch : Nat) (raw : Int)
  /-- MOTOROFF: `motorOff(ch)` -/
  | motorOff (ch : Nat)
  deriving DecidableEq, Repr

end Sys2Proof
end

