-- ==== Sys2Proof/WellFormed.lean ====
section
/-!
DEFINITION. Which instruction terms the command word can carry (30_encoding.md R60, R63), and which configurations
00_scope.md R8 allows.
-/

namespace Sys2Proof

/-- The channel fits the 8-bit field `chan`: "an integer 0 to 255" (R63). -/
def channelFits (ch : Nat) : Bool := decide (ch ≤ 255)

/-- The speed or angle fits the 16-bit field `val`: "an integer -32768 to 32767" (R63). -/
def rawFits (raw : Int) : Bool := decide (-32768 ≤ raw) && decide (raw ≤ 32767)

/-- The instruction can be written as a command word. An invalid channel (0, say) is well formed: it is
representable "so that the out-of-range case can be expressed" (R63) and is answered InvalidChannel. -/
def Instr.wellFormed : Instr → Bool
  | .init            => true
  | .motorDirOff ch  => channelFits ch
  | .motorFwd ch raw => channelFits ch && rawFits raw
  | .motorRev ch raw => channelFits ch && rawFits raw
  | .motorBad ch     => channelFits ch
  | .servo ch raw    => channelFits ch && rawFits raw
  | .motorOff ch     => channelFits ch

/-- The constraints of 00_scope.md R8: `1 <= N_MOTOR <= 27`, `0 <= FRAC <= 8`, and the sleep bit clear in
`WAKE_VAL`. -/
def Config.valid (cfg : Config) : Bool :=
  decide (1 ≤ cfg.nMotor) && decide (cfg.nMotor ≤ 27) && decide (cfg.frac ≤ 8) && !cfg.wakeVal.getLsbD cfg.sleepBit

end Sys2Proof
end

