-- ==== Sys2Proof/Decode.lean ====
section
/-!
DEFINITION. The command word (30_encoding.md section 2 to 4): decoding by the mask and match of R64, total on all
2^32 words (R70), and the encoder of the canonical words of R72.
-/

namespace Sys2Proof

/-- Why a word is no command. -/
inductive Reject where
  /-- bits 27:24 are not 0b0000: an illegal command (R65). The machine answers it IllegalCommand (R125). -/
  | reservedBitsSet (rsv : BitVec 4)
  deriving DecidableEq, Repr

/-- The seven rows of R64, without operands. -/
inductive Form where
  | init | motorDirOff | motorFwd | motorRev | motorBad | servo | motorOff
  deriving DecidableEq, Repr

/-- One row of the table of R64: a word has this form when `word & mask` is `bits`. -/
structure FormRow where
  form : Form
  mask : CmdWord
  bits : CmdWord
  deriving DecidableEq, Repr

/-- The mask and match columns of R64, in the order of its rows. -/
def formTable : List FormRow :=
  [ ⟨.init,        0xCF000000#32, 0x00000000#32⟩,
    ⟨.motorDirOff, 0xFF000000#32, 0x40000000#32⟩,
    ⟨.motorFwd,    0xFF000000#32, 0x50000000#32⟩,
    ⟨.motorRev,    0xFF000000#32, 0x60000000#32⟩,
    ⟨.motorBad,    0xFF000000#32, 0x70000000#32⟩,
    ⟨.servo,       0xCF000000#32, 0x80000000#32⟩,
    ⟨.motorOff,    0xCF000000#32, 0xC0000000#32⟩ ]

/-- "A word w selects the form whose match equals w & mask" (R64). -/
def FormRow.selects (r : FormRow) (w : CmdWord) : Bool := w &&& r.mask == r.bits

/-- The form a word selects, if any. -/
def selectForm (w : CmdWord) : Option Form := (formTable.find? (·.selects w)).map (·.form)

/-- `rsv`, bits 27:24 (R60). -/
def rsvField (w : CmdWord) : BitVec 4 := w.extractLsb' 24 4
/-- `chan`, bits 23:16 (R60). -/
def chanField (w : CmdWord) : BitVec 8 := w.extractLsb' 16 8
/-- `val`, bits 15:0 (R60). -/
def valField (w : CmdWord) : BitVec 16 := w.extractLsb' 0 16

/-- `ch = zext_8(CMDR[23:16])` (R63). -/
def chOf (w : CmdWord) : Nat := (chanField w).toNat
/-- `raw = sext_16(CMDR[15:0])` (R63). -/
def rawOf (w : CmdWord) : Int := (valField w).toInt

/-- The instruction of a form, with the operands that form uses (R64, R66). -/
def buildInstr (w : CmdWord) : Form → Instr
  | .init        => .init
  | .motorDirOff => .motorDirOff (chOf w)
  | .motorFwd    => .motorFwd (chOf w) (rawOf w)
  | .motorRev    => .motorRev (chOf w) (rawOf w)
  | .motorBad    => .motorBad (chOf w)
  | .servo       => .servo (chOf w) (rawOf w)
  | .motorOff    => .motorOff (chOf w)

/-- The decoder (R64, R65): every word is one of the seven forms or rejected by name. -/
def decode (w : CmdWord) : Except Reject Instr :=
  match selectForm w with
  | some f => .ok (buildInstr w f)
  | none   => .error (.reservedBitsSet (rsvField w))

/-- The format of R60: `op`, `dir`, `rsv` = 0, `chan`, `val`, most significant first. -/
def packWord (op dir : BitVec 2) (chan : BitVec 8) (val : BitVec 16) : CmdWord :=
  op ++ dir ++ 0#4 ++ chan ++ val

/-- The 8 bits of a channel number. -/
def chanBits (ch : Nat) : BitVec 8 := BitVec.ofNat 8 ch
/-- `val mod 2^16`: the two's complement form of a speed or angle (R72). -/
def valBits (raw : Int) : BitVec 16 := BitVec.ofInt 16 raw

/-- The canonical word of an instruction (R72, with the codes of R61 and R62): every ignored field 0. -/
def encode : Instr → CmdWord
  | .init            => packWord 0b00#2 0b00#2 0#8 0#16
  | .motorDirOff ch  => packWord 0b01#2 0b00#2 (chanBits ch) 0#16
  | .motorFwd ch raw => packWord 0b01#2 0b01#2 (chanBits ch) (valBits raw)
  | .motorRev ch raw => packWord 0b01#2 0b10#2 (chanBits ch) (valBits raw)
  | .motorBad ch     => packWord 0b01#2 0b11#2 (chanBits ch) 0#16
  | .servo ch raw    => packWord 0b10#2 0b00#2 (chanBits ch) (valBits raw)
  | .motorOff ch     => packWord 0b11#2 0b00#2 (chanBits ch) 0#16

/-- The bits of the words of an instruction's form that the form examines: its mask and its operand fields (R64,
R66). -/
def examinedBits : Instr → CmdWord
  | .init         => 0xCF000000#32
  | .motorDirOff _ => 0xFFFF0000#32
  | .motorFwd _ _ => 0xFFFFFFFF#32
  | .motorRev _ _ => 0xFFFFFFFF#32
  | .motorBad _   => 0xFFFF0000#32
  | .servo _ _    => 0xCFFFFFFF#32
  | .motorOff _   => 0xCFFF0000#32

/-- A command is always one 32-bit word per transfer (R60), its bits numbered as in the opcode table (R10). Bits
above `nbits` are 0; a command longer than 32 bits does not exist. -/
def wordOfTable (nbits w : Nat) : CmdWord := BitVec.ofNat 32 (w % 2 ^ nbits)

/-- The instruction the decoder reads from a row's bits as spec/opcode_table.json numbers them. -/
def decodeTableWord (nbits w : Nat) : Option Instr :=
  if nbits ≤ 32 then (decode (wordOfTable nbits w)).toOption else none

end Sys2Proof
end

