-- ==== Sys2Proof/Machine/State.lean ====
section
/-!
DEFINITION. The state of the PWM value encoder (10_state.md), as plain data, and the state right after the first
reset (10_state.md R31).
-/

namespace Sys2Proof.Machine

/-- `phase` (10_state.md R23). -/
inductive Phase where
  /-- no command in flight; the block accepts one -/
  | idle
  /-- the command in `CMDR` has a write still to send -/
  | busy
  /-- the block offers the response in `RSP` -/
  | resp
  deriving DecidableEq, Repr

/-- The `target` of a write (30_encoding.md R67). -/
inductive Target where
  /-- the registers of the chip at `DEV_ADDR` (20_memory.md R40) -/
  | chip
  /-- "the broadcast/reset address" (20_memory.md R41) -/
  | reset
  deriving DecidableEq, Repr

/-- The transport's answer to a write (20_memory.md R44). -/
inductive Answer where
  | ack
  | err
  deriving DecidableEq, Repr

/-- A write, the triple `(target, reg, data)` (30_encoding.md R67). -/
structure Write where
  target : Target
  reg    : RegAddr
  data   : Byte
  deriving DecidableEq, Repr

/-- An entry of `WLOG`: a write that was sent, with its answer (10_state.md R27). -/
structure LogEntry where
  write  : Write
  answer : Answer
  deriving DecidableEq, Repr

/-- A write that a reset edge withdrew (70_reset_and_hazards.md R141): it is not in `WLOG`, and it may have reached the
chip. -/
structure Withdrawn where
  write : Write
  /-- the length of `WLOG` at that edge -/
  sent  : Nat
  deriving DecidableEq, Repr

/-- The response codes of 30_encoding.md R68; 5, 6 and 7 are never produced. -/
inductive RespCode where
  | ok
  | invalidDirection
  | invalidChannel
  | transportError
  | illegalCommand
  deriving DecidableEq, Repr

/-- What `decode` of 41_commands.md R100 gives for a command word: `(WL, code0, ovf0)`. -/
structure Plan where
  /-- `WL`, the write list -/
  writes : List Write
  /-- `code0`, the response code when every write is acknowledged -/
  code   : RespCode
  /-- `ovf0`, the servo range flag -/
  ovf    : Bool
  deriving DecidableEq, Repr

/-- The levels of the input pins at one rising edge of `clk` (30_encoding.md R71). -/
structure Pins where
  rst      : Bool
  cmdValid : Bool
  cmd      : CmdWord
  wrReady  : Bool
  wrErr    : Bool
  rspReady : Bool
  deriving DecidableEq, Repr

/-- `REG`, the register image (10_state.md R26): a byte for each register address 0x00 to 0xFF, as pairs of an address
and its byte, every address listed once and in rising order. An address that is not listed does not exist (log 5). -/
abbrev Memory := List Host.Cell

/-- `REG` at the first reset after power-on: every register holds a byte, and which one is free (10_state.md R31;
log 5). -/
def Memory.powerOn : Memory := (List.range 256).map fun a => (a, Config.powerOnByte a)

/-- Why the machine stops. -/
inductive Fault where
  /-- Raised by the shared sequencer when `phase` is Busy and the write list has no entry at `widx`. The spec gives
  such a state no behaviour and no run from reset reaches it (10_state.md R22, R23). Safe: the model stops where
  the hardware is never (log 12). -/
  | noWriteToOffer
  deriving DecidableEq, Repr

/-- Why an instruction has no meaning. -/
inductive Refusal where
  /-- Raised by an arm of exec whose instruction has no meaning yet; no arm is left so. Safe. -/
  | notModelled (mnemonic : String)
  deriving DecidableEq, Repr

/-- The machine's state. -/
structure State where
  /-- `phase` (R23) -/
  phase : Phase
  /-- `CMDR`, the command latch (R21) -/
  cmdr  : CmdWord
  /-- `widx`, the write index (R22) -/
  widx  : BitVec 3
  /-- `RSP`, the response register `{ovf, code[2:0]}` (R24) -/
  rsp   : BitVec 4
  /-- `REG`, the register image (R26) -/
  reg   : Memory
  /-- `WLOG`, the write log, in the order sent (R27) -/
  wlog  : List LogEntry
  /-- the model's own observation, beside `WLOG`: the writes that reset edges withdrew, in order (R141; log 23) -/
  withdrawn : List Withdrawn
  /-- the parameters of 00_scope.md R8, which no step changes (log 8) -/
  cfg   : Config
  /-- the model's own field: the input pins of the coming edges, next first (log 1) -/
  inbox : List Pins
  /-- the model's own field: the number of edges so far, to which the free values are applied (log 2) -/
  tick  : Nat
  deriving DecidableEq, Repr

/-- The state after the first reset after power-on (10_state.md R31): Idle, `widx` 0, `WLOG` empty, every
register of `REG` at a free byte (log 5). `CMDR` and `RSP` are "unspecified" there and 0 here (DESIGN CHOICE, log 3);
`withdrawn`, `inbox` and `tick` are the model's own (DESIGN CHOICE, log 23, log 1 and log 2). -/
def State.reset : State where
  phase := .idle
  cmdr  := 0#32
  widx  := 0#3
  rsp   := 0#4
  reg   := Memory.powerOn
  wlog  := []
  withdrawn := []
  cfg   := Config.reference
  inbox := []
  tick  := 0

end Sys2Proof.Machine
end

