-- ==== Sys2Proof/Machine/Operands.lean ====
section
/-!
DEFINITION. The datapath of 40_datapath.md: clamp, linear scaler, byte splitter, address calculator.
-/

namespace Sys2Proof.Machine

/-- `clamp(v, lo, hi)` (00_scope.md R11). -/
def clamp (v lo hi : Int) : Int := if v < lo then lo else if hi < v then hi else v

/-- `CLAMP_M` in raw units, `rawc = clamp(raw, 0, 100 * 2^FRAC)` (R81). -/
def clampMotor (frac : Nat) (raw : Int) : Nat :=
  (clamp raw (Config.speedMin * 2 ^ frac : Nat) (Config.speedMax * 2 ^ frac : Nat)).toNat

/-- `CLAMP_S` in raw units, `rawc = clamp(raw, 0, 180 * 2^FRAC)` (R82). -/
def clampServo (frac : Nat) (raw : Int) : Nat :=
  (clamp raw (Config.angleMin * 2 ^ frac : Nat) (Config.angleMax * 2 ^ frac : Nat)).toNat

/-- The integer form of `rnd(x * num / den + offset)` with `x = rawc / 2^FRAC` (R83, R84): half of the denominator
is added before the floor division, so that ties go up (R85; log 10). -/
def scale (num den offset frac rawc : Nat) : Nat :=
  (rawc * num + (offset * den + den / 2) * 2 ^ frac) / (den * 2 ^ frac)

/-- `SCALE_M`: `(rawc * 819 + 10 * 2^FRAC) div (20 * 2^FRAC)` (R83). -/
def scaleMotor (frac rawc : Nat) : Nat := scale Config.kMotorNum Config.kMotorDen 0 frac rawc

/-- `SCALE_S`: `(rawc * 4551 + 205000 * 2^FRAC) div (2000 * 2^FRAC)` (R84). -/
def scaleServo (frac rawc : Nat) : Nat := scale Config.kServoNum Config.kServoDen Config.servoOffset frac rawc

/-- `pwm_m` of a speed field: clamp, then scale (R80). -/
def pwmMotor (cfg : Config) (raw : Int) : Pwm := BitVec.ofNat 12 (scaleMotor cfg.frac (clampMotor cfg.frac raw))

/-- `pwm_s` of an angle field: clamp, then scale (R80), carried in 12 bits (R84). -/
def pwmServo (cfg : Config) (raw : Int) : Pwm := BitVec.ofNat 12 (scaleServo cfg.frac (clampServo cfg.frac raw))

/-- `lo = pwm & 0xFF` (R86, R87). -/
def lowByte (pwm : Pwm) : Byte := (pwm &&& 0xFF#12).setWidth 8

/-- `hi = (pwm >> 8) & mask` (R86, R87): bits above the mask are dropped, never saturated (log 11). -/
def highByte (mask pwm : Pwm) : Byte := ((pwm >>> 8) &&& mask).setWidth 8

/-- `SPLIT_M`, the high byte (R86). -/
def highMotor (pwm : Pwm) : Byte := highByte Config.motorHiMask pwm

/-- `SPLIT_S`, the high byte (R87). -/
def highServo (pwm : Pwm) : Byte := highByte Config.servoHiMask pwm

/-- `validServo(ch)`: `1 <= ch <= 8` (R91). -/
def validServo (ch : Nat) : Bool := decide (1 ≤ ch) && decide (ch ≤ Config.nServo)

/-- `validMotor(ch)`: `1 <= ch <= N_MOTOR` (R91). -/
def validMotor (cfg : Config) (ch : Nat) : Bool := decide (1 ≤ ch) && decide (ch ≤ cfg.nMotor)

/-- `ADDR_S`: `0x08 + (ch - 1) * 4`, for a valid servo channel (R89). -/
def addrServo (ch : Nat) : RegAddr := BitVec.ofNat 8 (Config.servoBase + (ch - 1) * Config.stride)

/-- `ADDR_M`: `0x28 + 2 * (ch - 1) * 4`, for a valid motor channel (R90). -/
def addrMotor (ch : Nat) : RegAddr := BitVec.ofNat 8 (Config.motorBase + 2 * (ch - 1) * Config.stride)

end Sys2Proof.Machine
end

