-- ==== Sys2Proof/Machine/Flags.lean ====
section
/-!
DEFINITION. The servo range flag (40_datapath.md R88) and the response record (30_encoding.md R68, 10_state.md R24).
-/

namespace Sys2Proof.Machine

/-- `OVF`: 1 exactly when the servo PWM value exceeds 511 (R88). -/
def servoOvf (pwm : Pwm) : Bool := decide (511 < pwm.toNat)

/-- The number of a response code (R68). -/
def RespCode.bits : RespCode → BitVec 3
  | .ok               => 0#3
  | .invalidDirection => 1#3
  | .invalidChannel   => 2#3
  | .transportError   => 3#3
  | .illegalCommand   => 4#3

/-- The response register `{ovf, code[2:0]}` (10_state.md R24). -/
def packRsp (code : RespCode) (ovf : Bool) : BitVec 4 := BitVec.ofBool ovf ++ code.bits

/-- The field `code` of `RSP`. -/
def rspCode (rsp : BitVec 4) : BitVec 3 := rsp.extractLsb' 0 3

/-- The field `ovf` of `RSP`. -/
def rspOvf (rsp : BitVec 4) : BitVec 1 := rsp.extractLsb' 3 1

end Sys2Proof.Machine
end

