-- ==== Sys2Proof/Machine/Ops.lean ====
section
/-!
DEFINITION. The operations every command shares: the register image, the write primitive, ending a command with a
response (this block's "taking an exception", 60_exceptions.md R128) and its delivery (R129), and the sequencer of
41_commands.md R100.
-/

namespace Sys2Proof.Machine

/-! ### The register image `REG` -/

/-- The byte register `a` holds; none for an address outside the chip's register space (log 5). -/
def Memory.read : Memory → Nat → Option Byte
  | [], _ => none
  | (b, v) :: m, a => if a = b then some v else Memory.read m a

/-- `REG[a] <- v`: `a`'s byte is replaced in place. -/
def Memory.write : Memory → Nat → Byte → Memory
  | [], a, v => [(a, v)]
  | (b, w) :: m, a, v =>
    if a < b then (a, v) :: (b, w) :: m
    else if a = b then (a, v) :: m
    else (b, w) :: Memory.write m a v

/-- The addresses listed are those from `lo` up to 255, each once and in rising order. -/
def Memory.wfFrom (lo : Nat) : Memory → Bool
  | [] => decide (lo = 256)
  | (b, _) :: m => decide (b = lo) && decide (b < 256) && Memory.wfFrom (lo + 1) m

/-- The canonical form of a register image: every one of the 256 registers holds a byte (10_state.md R26, 20_memory.md
R40), and equal images are equal lists. No entry equals what an unlisted address reads as, because such an address does
not exist and has no value. -/
def Memory.wf (m : Memory) : Bool := Memory.wfFrom 0 m

/-! ### The input pins -/

/-- The pins at edge `n` when State lists none for it: every level is free (log 1). -/
def freePins (n : Nat) : Pins where
  rst      := Config.freeRst n
  cmdValid := Config.freeCmdValid n
  cmd      := Config.freeCmd n
  wrReady  := Config.freeWrReady n
  wrErr    := Config.freeWrErr n
  rspReady := Config.freeRspReady n

/-- The input pins at the coming edge. -/
def State.pins (s : State) : Pins :=
  match s.inbox with
  | p :: _ => p
  | []     => freePins s.tick

/-- The edge is over: the next pins come up. -/
def State.endEdge (s : State) : State := { s with inbox := s.inbox.tail, tick := s.tick + 1 }

/-- The answer a completed write gets: `err` if `wr_err` is 1, else `ack` (30_encoding.md R74). -/
def Pins.answer (p : Pins) : Answer := if p.wrErr then .err else .ack

/-! ### The write primitive -/

/-- The effect of a write on `REG` (20_memory.md R44): only an acknowledged write to the chip changes it (log 7,
log 18). -/
def Memory.apply (m : Memory) (w : Write) (answer : Answer) : Memory :=
  match w.target, answer with
  | .chip,  .ack => m.write w.reg.toNat w.data
  | .chip,  .err => m
  | .reset, _    => m

/-- `RegWrite`'s effect once the transport has answered (20_memory.md R44): `REG`, and in every case `WLOG`. -/
def State.regWrite (s : State) (w : Write) (answer : Answer) : State :=
  { s with reg := s.reg.apply w answer, wlog := s.wlog ++ [⟨w, answer⟩] }

/-! ### Ending a command -/

/-- `respond(code, ovf)`: `RSP <- (code, ovf)`, `phase <- Resp` and nothing else (60_exceptions.md R128, 00_scope.md
R12). -/
def State.respond (s : State) (code : RespCode) (ovf : Bool) : State :=
  { s with rsp := packRsp code ovf, phase := .resp }

/-- Delivery of the response: `phase <- Idle` (41_commands.md R100, 60_exceptions.md R129). -/
def State.deliver (s : State) : State := { s with phase := .idle }

/-! ### The sequencer -/

/-- A command transfer: `CMDR <- cmd`, `widx <- 0` (30_encoding.md R74). -/
def State.latch (s : State) (cmd : CmdWord) : State := { s with cmdr := cmd, widx := 0#3 }

/-- Acceptance (41_commands.md R100): an empty write list goes straight to the response. -/
def State.accept (s : State) (cmd : CmdWord) (plan : Plan) : State :=
  if plan.writes.isEmpty then (s.latch cmd).respond plan.code plan.ovf
  else { s.latch cmd with phase := .busy }

/-- `widx <- widx + 1` (41_commands.md R100). It never wraps, for no write list has more than 7 entries (10_state.md
R22). -/
def State.bump (s : State) : State := { s with widx := s.widx + 1#3 }

/-- `widx <- widx + 1`, and the response if that was the last write (41_commands.md R100). -/
def State.advance (s : State) (plan : Plan) : State :=
  if s.widx.toNat + 1 = plan.writes.length then s.bump.respond plan.code plan.ovf else s.bump

/-- Completion of the offered write (41_commands.md R100): its effect, then the end of the list on `err`
(60_exceptions.md R124), else the next write. -/
def State.complete (s : State) (w : Write) (answer : Answer) (plan : Plan) : State :=
  match answer with
  | .err => (s.regWrite w .err).respond .transportError false
  | .ack => (s.regWrite w .ack).advance plan

/-- One edge of the sequencer of 41_commands.md R100 for the command whose `(WL, code0, ovf0)` is `plan`, with the
handshakes of 30_encoding.md R74. Without a transfer nothing changes. -/
def runSequencer (plan : Plan) (s : State) : Host.Outcome State Fault Refusal :=
  match s.phase with
  | .idle => if s.pins.cmdValid then .next (s.accept s.pins.cmd plan) else .next s
  | .busy =>
    match plan.writes[s.widx.toNat]? with
    | some w => if s.pins.wrReady then .next (s.complete w s.pins.answer plan) else .next s
    | none   => .fault .noWriteToOffer
  | .resp => if s.pins.rspReady then .next s.deliver else .next s

/-- The plan of a word with reserved bits set: no write, IllegalCommand (60_exceptions.md R125). -/
def illegalPlan : Plan := ⟨[], .illegalCommand, false⟩

/-- An edge at which the word in force is an illegal command (30_encoding.md R65). -/
def rejectIllegal (s : State) : Host.Outcome State Fault Refusal := runSequencer illegalPlan s

/-- The command word an edge is about: the offered one while Idle, the latched one while a command is in flight;
none while Idle with nothing offered. -/
def State.commandInForce (s : State) : Option CmdWord :=
  match s.phase with
  | .idle => if s.pins.cmdValid then some s.pins.cmd else none
  | .busy => some s.cmdr
  | .resp => some s.cmdr

/-- `f` after a next state. -/
def thenNext (f : State → State) : Host.Outcome State Fault Refusal → Host.Outcome State Fault Refusal
  | .next s    => .next (f s)
  | .fault r   => .fault r
  | .refused r => .refused r

end Sys2Proof.Machine
end

