-- ==== Sys2Proof/Machine/Init.lean ====
section
/-!
DEFINITION. INIT (41_commands.md R101).
-/

namespace Sys2Proof.Machine

/-- A write to the chip. -/
def chipWrite (reg : RegAddr) (data : Byte) : Write := ⟨.chip, reg, data⟩

/-- The seven writes of INIT, in "this exact order" (R101). -/
def initPlan (cfg : Config) : Plan :=
  ⟨[ ⟨.reset, cfg.swrstReg, cfg.swrstVal⟩,
     chipWrite cfg.prescaleReg Config.prescaleVal,
     chipWrite cfg.allOffReg[0] cfg.allOffVal[0],
     chipWrite cfg.allOffReg[1] cfg.allOffVal[1],
     chipWrite cfg.allOffReg[2] cfg.allOffVal[2],
     chipWrite cfg.allOffReg[3] cfg.allOffVal[3],
     chipWrite cfg.modeReg cfg.wakeVal ],
   .ok, false⟩

/-- INIT: the fixed chip bring-up sequence (R101). It keeps no record that it was sent (70_reset_and_hazards.md
R144). -/
def execInit (s : State) : Host.Outcome State Fault Refusal := runSequencer (initPlan s.cfg) s

end Sys2Proof.Machine
end

