-- ==== Sys2Proof/Machine/Motor.lean ====
section
/-!
DEFINITION. The motor commands (41_commands.md R102 to R106).
-/

namespace Sys2Proof.Machine

/-- The frame of every motor command: InvalidChannel without a write unless the channel is valid (60_exceptions.md
R123), else `writes` of the motor's base address and the command's own code; never `ovf` (40_datapath.md R88). -/
def motorPlan (cfg : Config) (ch : Nat) (code : RespCode) (writes : RegAddr → List Write) : Plan :=
  if validMotor cfg ch then ⟨writes (addrMotor ch), code, false⟩ else ⟨[], .invalidChannel, false⟩

/-- Four zero writes at the offsets 0, 1, 4, 5 in that order (R104). -/
def zeroWrites (mb : RegAddr) : List Write :=
  [chipWrite mb 0#8, chipWrite (mb + 1) 0#8, chipWrite (mb + 4) 0#8, chipWrite (mb + 5) 0#8]

/-- MOTOR.FWD: forward pair first, then the zero reverse pair (R102). -/
def motorFwdPlan (cfg : Config) (ch : Nat) (raw : Int) : Plan :=
  motorPlan cfg ch .ok fun mb =>
    [ chipWrite mb (lowByte (pwmMotor cfg raw)), chipWrite (mb + 1) (highMotor (pwmMotor cfg raw)),
      chipWrite (mb + 4) 0#8, chipWrite (mb + 5) 0#8 ]

/-- MOTOR.REV: reverse pair first, then the zero forward pair (R103). -/
def motorRevPlan (cfg : Config) (ch : Nat) (raw : Int) : Plan :=
  motorPlan cfg ch .ok fun mb =>
    [ chipWrite (mb + 4) (lowByte (pwmMotor cfg raw)), chipWrite (mb + 5) (highMotor (pwmMotor cfg raw)),
      chipWrite mb 0#8, chipWrite (mb + 1) 0#8 ]

/-- MOTOR.OFF: four zero writes (R104). -/
def motorDirOffPlan (cfg : Config) (ch : Nat) : Plan := motorPlan cfg ch .ok zeroWrites

/-- MOTOR.BAD: four zero writes, then InvalidDirection (R105). -/
def motorBadPlan (cfg : Config) (ch : Nat) : Plan := motorPlan cfg ch .invalidDirection zeroWrites

/-- MOTOROFF: four zero writes (R106). -/
def motorOffPlan (cfg : Config) (ch : Nat) : Plan := motorPlan cfg ch .ok zeroWrites

/-- MOTOR.FWD (R102). -/
def execMotorFwd (ch : Nat) (raw : Int) (s : State) : Host.Outcome State Fault Refusal :=
  runSequencer (motorFwdPlan s.cfg ch raw) s

/-- MOTOR.REV (R103). -/
def execMotorRev (ch : Nat) (raw : Int) (s : State) : Host.Outcome State Fault Refusal :=
  runSequencer (motorRevPlan s.cfg ch raw) s

/-- MOTOR.OFF (R104). -/
def execMotorDirOff (ch : Nat) (s : State) : Host.Outcome State Fault Refusal :=
  runSequencer (motorDirOffPlan s.cfg ch) s

/-- MOTOR.BAD (R105). -/
def execMotorBad (ch : Nat) (s : State) : Host.Outcome State Fault Refusal :=
  runSequencer (motorBadPlan s.cfg ch) s

/-- MOTOROFF (R106). -/
def execMotorOff (ch : Nat) (s : State) : Host.Outcome State Fault Refusal :=
  runSequencer (motorOffPlan s.cfg ch) s

end Sys2Proof.Machine
end

