-- ==== Sys2Proof/Machine/Servo.lean ====
section
/-!
DEFINITION. The servo command (41_commands.md R107).
-/

namespace Sys2Proof.Machine

/-- SERVO: low byte, then high byte, and the range flag; InvalidChannel without a write for a channel outside 1 to 8
(R107, 60_exceptions.md R122). -/
def servoPlan (cfg : Config) (ch : Nat) (raw : Int) : Plan :=
  if validServo ch then
    ⟨[ chipWrite (addrServo ch) (lowByte (pwmServo cfg raw)), chipWrite (addrServo ch + 1) (highServo (pwmServo cfg raw)) ],
      .ok, servoOvf (pwmServo cfg raw)⟩
  else ⟨[], .invalidChannel, false⟩

/-- SERVO (R107). -/
def execServo (ch : Nat) (raw : Int) (s : State) : Host.Outcome State Fault Refusal :=
  runSequencer (servoPlan s.cfg ch raw) s

end Sys2Proof.Machine
end

