-- ==== Sys2Proof/Machine/Ports.lean ====
section
/-!
DEFINITION. What the block shows on its output pins (30_encoding.md R71), and the reset edge
(70_reset_and_hazards.md R140, R141).
-/

namespace Sys2Proof.Machine

/-- `decode` of 41_commands.md R100 for an instruction: the plan its meaning runs. -/
def planOf (cfg : Config) : Instr → Plan
  | .init            => initPlan cfg
  | .motorDirOff ch  => motorDirOffPlan cfg ch
  | .motorFwd ch raw => motorFwdPlan cfg ch raw
  | .motorRev ch raw => motorRevPlan cfg ch raw
  | .motorBad ch     => motorBadPlan cfg ch
  | .servo ch raw    => servoPlan cfg ch raw
  | .motorOff ch     => motorOffPlan cfg ch

/-- `decode` of 41_commands.md R100 for a command word, an illegal one included (R125): a function of the word and
the parameters alone. -/
def planOfWord (cfg : Config) (w : CmdWord) : Plan :=
  match decode w with
  | .ok i    => planOf cfg i
  | .error _ => illegalPlan

/-- The plan of the command in `CMDR`. -/
def State.plan (s : State) : Plan := planOfWord s.cfg s.cmdr

/-- The write on the write port: `WL[widx]` while Busy (10_state.md R23). -/
def State.offeredWrite (s : State) : Option Write :=
  match s.phase with
  | .idle => none
  | .busy => s.plan.writes[s.widx.toNat]?
  | .resp => none

/-- `wr_target`: 0 = CHIP, 1 = RESET (30_encoding.md R71). -/
def Target.bit : Target → BitVec 1
  | .chip  => 0#1
  | .reset => 1#1

/-- The output pins (30_encoding.md R71). The payload of a port is given while its `valid` is 1; the spec gives it
no level otherwise (log 20). -/
structure Outputs where
  cmdReady : Bool
  wrValid  : Bool
  /-- constant `DEV_ADDR` -/
  wrDev    : BitVec 7
  /-- `wr_target`, `wr_reg`, `wr_data` -/
  write    : Option (BitVec 1 × RegAddr × Byte)
  rspValid : Bool
  /-- `rsp_code`, `rsp_ovf` -/
  response : Option (BitVec 3 × BitVec 1)
  deriving DecidableEq, Repr

/-- The levels of the output pins in a state (30_encoding.md R71). -/
def State.outputs (s : State) : Outputs where
  cmdReady := s.phase == .idle
  wrValid  := s.phase == .busy
  wrDev    := Config.devAddr
  write    := s.offeredWrite.map fun w => (w.target.bit, w.reg, w.data)
  rspValid := s.phase == .resp
  response := if s.phase = .resp then some (rspCode s.rsp, rspOvf s.rsp) else none

/-- What a reset leaves of a write it withdraws: the chip has the old byte or the new one, by a free value
(70_reset_and_hazards.md R141; log 6). -/
def Memory.withdraw (m : Memory) (offered : Option Write) (landed : Bool) : Memory :=
  match offered with
  | some w => if landed then m.apply w .ack else m
  | none   => m

/-- A rising edge with `rst` = 1 (70_reset_and_hazards.md R140 to R142, 10_state.md R31): Idle, `widx` 0, `CMDR` and
`RSP` unspecified (free values, log 4), `WLOG` as it was, and `REG` as it was up to a withdrawn write, which is noted in
`withdrawn` (log 23). -/
def State.resetEdge (s : State) : State :=
  { s with
    phase := .idle
    cmdr  := Config.cmdrAfterReset s.tick
    widx  := 0#3
    rsp   := Config.rspAfterReset s.tick
    reg   := s.reg.withdraw s.offeredWrite (Config.withdrawnWriteLands s.tick)
    withdrawn := s.withdrawn ++ (s.offeredWrite.map fun w => ⟨w, s.wlog.length⟩).toList }

end Sys2Proof.Machine
end

