-- ==== Sys2Proof/Machine/Dispatch.lean ====
section
/-!
DEFINITION. One arm per command form: the meaning of an instruction at one edge.
-/

namespace Sys2Proof.Machine

def exec (i : Instr) (s : State) : Host.Outcome State Fault Refusal :=
  match i with
  | .init => Sys2Proof.Machine.execInit s
  | .motorDirOff ch => Sys2Proof.Machine.execMotorDirOff ch s
  | .motorFwd ch raw => Sys2Proof.Machine.execMotorFwd ch raw s
  | .motorRev ch raw => Sys2Proof.Machine.execMotorRev ch raw s
  | .motorBad ch => Sys2Proof.Machine.execMotorBad ch s
  | .servo ch raw => Sys2Proof.Machine.execServo ch raw s
  | .motorOff ch => Sys2Proof.Machine.execMotorOff ch s

end Sys2Proof.Machine
end

