-- ==== Sys2Proof/Machine/Step.lean ====
section
/-!
DEFINITION. One step: one rising edge of `clk` (30_encoding.md R71, R74).
-/

namespace Sys2Proof.Machine

/-- One rising edge: reset if `rst` is 1 (70_reset_and_hazards.md R140), else the sequencer's edge for the command
word in force, decoded (41_commands.md R100). Then the edge is over. -/
def step (s : State) : Host.Outcome State Fault Refusal :=
  if s.pins.rst then .next s.resetEdge.endEdge
  else
    match s.commandInForce with
    | none   => .next s.endEdge
    | some w =>
      match decode w with
      | .ok i    => thenNext State.endEdge (exec i s)
      | .error _ => thenNext State.endEdge (rejectIllegal s)

/-- The host offers word `w` at the next edge: `cmd_valid` = 1 and nothing else asserted. -/
def Pins.offer (w : CmdWord) : Pins := ⟨false, true, w, false, false, false⟩

/-- The block is Idle and the host offers the word at the very next edge, so that the next step accepts and runs
exactly that command (log 13). -/
def State.withFetchWord (s : State) (nbits w : Nat) : State :=
  { s with phase := .idle, inbox := Pins.offer (wordOfTable nbits w) :: s.inbox }

end Sys2Proof.Machine
end

