-- ==== Sys2Proof/Safety.lean ====
section
/-!
DEFINITION. The terms claims are stated in: what a command has sent so far, the invariant of the sequencer, and the
premise under which a claim about the chip's timing may stand.
-/

namespace Sys2Proof.Machine

/-- The first `k` writes of a plan, each acknowledged: what `WLOG` ends with when `k` writes have completed. -/
def Plan.acked (plan : Plan) (k : Nat) : List LogEntry := (plan.writes.take k).map fun w => ⟨w, .ack⟩

/-- The chip registers a plan writes, in order. -/
def Plan.regs (plan : Plan) : List RegAddr := (plan.writes.filter fun w => w.target == .chip).map (·.reg)

/-- The first `k` writes of a plan stand in `REG`, in so far as they went to the chip. -/
def Plan.standsIn (plan : Plan) (k : Nat) (m : Memory) : Prop :=
  ∀ w ∈ plan.writes.take k, w.target = .chip → m.read w.reg.toNat = some w.data

/-- The channel of a command is valid (40_datapath.md R91); INIT has none. -/
def channelValid (cfg : Config) : Instr → Prop
  | .init           => True
  | .motorDirOff ch => 1 ≤ ch ∧ ch ≤ cfg.nMotor
  | .motorFwd ch _  => 1 ≤ ch ∧ ch ≤ cfg.nMotor
  | .motorRev ch _  => 1 ≤ ch ∧ ch ≤ cfg.nMotor
  | .motorBad ch    => 1 ≤ ch ∧ ch ≤ cfg.nMotor
  | .servo ch _     => 1 ≤ ch ∧ ch ≤ 8
  | .motorOff ch    => 1 ≤ ch ∧ ch ≤ cfg.nMotor

/-- The motor a command is about, if it is a motor command. -/
def motorOf : Instr → Option Nat
  | .init           => none
  | .motorDirOff ch => some ch
  | .motorFwd ch _  => some ch
  | .motorRev ch _  => some ch
  | .motorBad ch    => some ch
  | .servo _ _      => none
  | .motorOff ch    => some ch

/-- While Busy there is a write to offer, and exactly the writes before it have been sent, in order and all
acknowledged; they stand in `REG` if no register is written twice (20_memory.md R49, 10_state.md R22). No reset came
between them. -/
structure State.BusyInv (s : State) : Prop where
  widx  : s.widx.toNat < s.plan.writes.length
  log   : s.plan.acked s.widx.toNat <:+ s.wlog
  cuts  : ∀ c ∈ s.withdrawn, c.sent + s.widx.toNat ≤ s.wlog.length
  image : s.plan.regs.Nodup → s.plan.standsIn s.widx.toNat s.reg

/-- In Resp after the whole list was acknowledged: the command's own response (41_commands.md R100). -/
structure State.DoneInv (s : State) : Prop where
  rsp   : s.rsp = packRsp s.plan.code s.plan.ovf
  widx  : s.widx.toNat = s.plan.writes.length
  log   : s.plan.acked s.plan.writes.length <:+ s.wlog
  cuts  : ∀ c ∈ s.withdrawn, c.sent + s.plan.writes.length ≤ s.wlog.length
  image : s.plan.regs.Nodup → s.plan.standsIn s.plan.writes.length s.reg

/-- In Resp after a failed write: `(TransportError, 0)`, the writes before it acknowledged and none after it sent
(60_exceptions.md R124). -/
structure State.FailedInv (s : State) : Prop where
  rsp : s.rsp = packRsp .transportError false
  log : ∃ w, s.plan.writes[s.widx.toNat]? = some w ∧ s.plan.acked s.widx.toNat ++ [⟨w, .err⟩] <:+ s.wlog

/-- The invariant of the machine. `reg` says that each of the 256 registers holds a byte (10_state.md R26). -/
structure State.Inv (s : State) : Prop where
  cfg  : s.cfg.valid = true
  reg  : s.reg.wf = true
  cuts : ∀ c ∈ s.withdrawn, c.sent ≤ s.wlog.length
  busy : s.phase = .busy → s.BusyInv
  resp : s.phase = .resp → s.DoneInv ∨ s.FailedInv

/-- A state no rule of the spec is broken in. A run is safe when each of its states is. -/
def State.Safe (s : State) : Prop := s.Inv

/-- `c` does not disturb an INIT whose seven writes follow the first `n` entries of `WLOG`: it was withdrawn before them,
or after all of them and was no software reset, which may have reached the chip (70_reset_and_hazards.md R141). -/
def Withdrawn.spares (c : Withdrawn) (n : Nat) : Prop := n < c.sent → n + 7 ≤ c.sent ∧ c.write.target ≠ .reset

/-- The block is sending an INIT. -/
def State.sendingInit (s : State) : Prop := s.phase = .busy ∧ decode s.cmdr = .ok .init

/-- The premise of 70_reset_and_hazards.md R143 and R145, as the model reads them (log 21): the last INIT was sent whole,
writes 0 to 6 in order and acknowledged, and no software reset was sent, offered or withdrawn by a reset edge since.
Without it no claim may rest on the chip's PWM timing (93_implementation_defined.md U1, U2). -/
def State.chipTimingDefined (s : State) : Prop :=
  ¬ s.sendingInit ∧
  ∃ before after, s.wlog = before ++ (initPlan s.cfg).acked 7 ++ after ∧ (∀ e ∈ after, e.write.target ≠ .reset) ∧
    ∀ c ∈ s.withdrawn, c.spares before.length

/-- `REG` rebuilt from a base image and the log (10_state.md R27). -/
def replay (base : Memory) (log : List LogEntry) : Memory := log.foldl (fun m e => m.apply e.write e.answer) base

/-- Both bytes of a register pair are 0 in `REG`. -/
def pairZero (m : Memory) (lo : RegAddr) : Prop := m.read lo.toNat = some 0#8 ∧ m.read (lo + 1).toNat = some 0#8

/-- A byte of a register pair is known to be non-zero in `REG`. -/
def pairNonzero (m : Memory) (lo : RegAddr) : Prop :=
  ∃ b, b ≠ 0#8 ∧ (m.read lo.toNat = some b ∨ m.read (lo + 1).toNat = some b)

/-- An edge at which the transport acknowledges the offered write. -/
def Pins.ack : Pins := ⟨false, false, 0#32, true, false, false⟩

/-- An edge at which the transport answers the offered write with `err`. -/
def Pins.nak : Pins := ⟨false, false, 0#32, true, true, false⟩

/-- An edge at which the host takes the response. -/
def Pins.take : Pins := ⟨false, false, 0#32, false, false, true⟩

end Sys2Proof.Machine
end

