-- ==== Sys2Proof/Certificates/Slice0/Obligations.lean ====
section
/-!
DEFINITION. The statements about the PWM value encoder, one per rule or group of rules of spec/. The small definitions
before them spell what several statements say alike; everything a statement claims is written out in them.
-/

open Sys2Proof
open Sys2Proof.Machine

/-! ### What the command statements say alike -/

/-- The sequencer's three edges for an instruction with the non-empty write list `writes` and the response value
`rsp` (41_commands.md R100): acceptance of the offered word; completion of the write at `widx` by `ack`, with the
response if it was the last; completion by `err`, which ends the command with `(TransportError, 0)` = 3 and leaves
`REG` alone. Each conclusion gives the whole next state. -/
def SendsInOrder (i : Instr) (writes : List Write) (rsp : BitVec 4) (s : State) : Prop :=
  (s.phase = .idle → s.pins.cmdValid = true →
    exec i s = .next { s with cmdr := s.pins.cmd, widx := 0#3, phase := .busy }) ∧
  (∀ w, s.phase = .busy → writes[s.widx.toNat]? = some w → s.pins.wrReady = true → s.pins.wrErr = false →
    exec i s = .next
      { s with
        widx  := s.widx + 1#3
        reg   := if w.target = .chip then s.reg.write w.reg.toNat w.data else s.reg
        wlog  := s.wlog ++ [⟨w, .ack⟩]
        phase := if s.widx.toNat + 1 = writes.length then .resp else .busy
        rsp   := if s.widx.toNat + 1 = writes.length then rsp else s.rsp }) ∧
  (∀ w, s.phase = .busy → writes[s.widx.toNat]? = some w → s.pins.wrReady = true → s.pins.wrErr = true →
    exec i s = .next { s with wlog := s.wlog ++ [⟨w, .err⟩], phase := .resp, rsp := 3#4 })

/-- The instruction is answered at its acceptance, with no write, by the response value `rsp`. -/
def AnsweredAtOnce (i : Instr) (rsp : BitVec 4) (s : State) : Prop :=
  s.phase = .idle → s.pins.cmdValid = true →
    exec i s = .next { s with cmdr := s.pins.cmd, widx := 0#3, phase := .resp, rsp := rsp }

/-- `clamp(raw, 0, max * 2^FRAC)` of 40_datapath.md R81 and R82. -/
def rawClamped (cfg : Config) (max : Nat) (raw : Int) : Nat := (min (Max.max raw 0) (max * 2 ^ cfg.frac : Nat)).toNat

/-- `pwm_m = (rawc * 819 + 10 * 2^FRAC) div (20 * 2^FRAC)` (R83). -/
def specPwmMotor (cfg : Config) (raw : Int) : Nat :=
  (rawClamped cfg 100 raw * 819 + 10 * 2 ^ cfg.frac) / (20 * 2 ^ cfg.frac)

/-- `pwm_s = (rawc * 4551 + 205000 * 2^FRAC) div (2000 * 2^FRAC)` (R84). -/
def specPwmServo (cfg : Config) (raw : Int) : Nat :=
  (rawClamped cfg 180 raw * 4551 + 205000 * 2 ^ cfg.frac) / (2000 * 2 ^ cfg.frac)

/-- `motorBase(m) + off` with `motorBase(m) = 0x28 + 2*(m-1)*4` (R90). -/
def specMotorReg (m off : Nat) : RegAddr := BitVec.ofNat 8 (0x28 + 2 * (m - 1) * 4 + off)

/-- `servoBase(c) + off` with `servoBase(c) = 0x08 + (c-1)*4` (R89). -/
def specServoReg (c off : Nat) : RegAddr := BitVec.ofNat 8 (0x08 + (c - 1) * 4 + off)

/-- A write of the number `data` to a register of the chip. -/
def toChip (reg : RegAddr) (data : Nat) : Write := ⟨.chip, reg, BitVec.ofNat 8 data⟩

/-- "write all four offsets {0,1,4,5} to 0", in that order (R104). -/
def specZeroWrites (m : Nat) : List Write :=
  [toChip (specMotorReg m 0) 0, toChip (specMotorReg m 1) 0, toChip (specMotorReg m 4) 0, toChip (specMotorReg m 5) 0]

/-! ### Encoding -/

/-- Decoding the canonical word of a well-formed instruction gives it back, every operand at every value (R72, R64,
R63). -/
def Obligations.DecodeEncodeRoundTrip : Prop :=
  ∀ i : Instr, i.wellFormed = true → decode (encode i) = .ok i

/-- What a word decodes to is well formed, and its canonical word is the word with every bit its form ignores set to 0
(R66, R72). -/
def Obligations.EncodeDecodeIsCanonicalWord : Prop :=
  ∀ (w : CmdWord) (i : Instr), decode w = .ok i → i.wellFormed = true ∧ encode i = w &&& examinedBits i

/-- The seven patterns are pairwise disjoint and together cover exactly the words with `rsv` = 0 (R64). -/
def Obligations.FormsDisjointAndCoverReservedZero : Prop :=
  ∀ w : CmdWord,
    (∀ r ∈ formTable, ∀ r' ∈ formTable, w &&& r.mask = r.bits → w &&& r'.mask = r'.bits → r = r') ∧
    ((∃ r ∈ formTable, w &&& r.mask = r.bits) ↔ w.toNat / 2 ^ 24 % 16 = 0)

/-- The decoder is total: every word is a well-formed instruction or an illegal command, and it is illegal exactly when
bits 27:24 are not 0 (R70, R65). -/
def Obligations.DecoderTotalAndRejectsOnlyReservedBits : Prop :=
  ∀ w : CmdWord,
    (w.toNat / 2 ^ 24 % 16 = 0 → ∃ i, decode w = .ok i ∧ i.wellFormed = true) ∧
    (w.toNat / 2 ^ 24 % 16 ≠ 0 → decode w = .error (.reservedBitsSet (BitVec.ofNat 4 (w.toNat / 2 ^ 24))))

/-- Fields a form does not use are ignored: any value in them decodes to the same instruction, so to the same write
list and response; and the canonical word has 0 in them (R66). -/
def Obligations.IgnoredFieldsDoNotMatter : Prop :=
  ∀ (w w' : CmdWord) (i : Instr), decode w = .ok i → w' &&& examinedBits i = w &&& examinedBits i →
    decode w' = .ok i ∧ (∀ cfg, planOfWord cfg w' = planOfWord cfg w) ∧ encode i = w' &&& examinedBits i

/-- Operand assembly: in a MOTOR.FWD, MOTOR.REV or SERVO word, `ch` is bits 23:16 unsigned and `raw` bits 15:0 in two's
complement (R63, R61, R62). -/
def Obligations.OperandsAreChanAndSignedVal : Prop :=
  ∀ w : CmdWord,
    let ch := w.toNat / 2 ^ 16 % 256
    let raw : Int := if w.toNat % 2 ^ 16 < 2 ^ 15 then (w.toNat % 2 ^ 16 : Nat) else (w.toNat % 2 ^ 16 : Nat) - 2 ^ 16
    (w.toNat / 2 ^ 24 = 0x50 → decode w = .ok (.motorFwd ch raw)) ∧
    (w.toNat / 2 ^ 24 = 0x60 → decode w = .ok (.motorRev ch raw)) ∧
    (w.toNat / 2 ^ 24 = 0x40 → decode w = .ok (.motorDirOff ch)) ∧
    (w.toNat / 2 ^ 24 = 0x70 → decode w = .ok (.motorBad ch)) ∧
    (w.toNat / 2 ^ 24 % 64 % 16 = 0 → w.toNat / 2 ^ 30 = 0 → decode w = .ok .init) ∧
    (w.toNat / 2 ^ 24 % 64 % 16 = 0 → w.toNat / 2 ^ 30 = 2 → decode w = .ok (.servo ch raw)) ∧
    (w.toNat / 2 ^ 24 % 64 % 16 = 0 → w.toNat / 2 ^ 30 = 3 → decode w = .ok (.motorOff ch))

/-- Words of 95_test_vectors.md sections 2.5 and 2.6, one per form, and an illegal one. -/
def Obligations.SampleWordsDecode : Prop :=
  decode 0x207FFFFF#32 = .ok .init ∧ decode 0x40010037#32 = .ok (.motorDirOff 1) ∧
  decode 0x5001FFCE#32 = .ok (.motorFwd 1 (-50)) ∧ decode 0x60020021#32 = .ok (.motorRev 2 33) ∧
  decode 0x70020000#32 = .ok (.motorBad 2) ∧ decode 0xB001005A#32 = .ok (.servo 1 90) ∧
  decode 0xF0021234#32 = .ok (.motorOff 2) ∧ decode 0x8101005A#32 = .error (.reservedBitsSet 1#4)

/-! ### Datapath -/

/-- `CLAMP_M` and `SCALE_M`: the motor PWM value is the exact rational `clamp(v, 0, 100) * 40.95` with `v = raw /
2^FRAC`, plus one half, rounded down; and it is the integer form (R80, R81, R83, R85). -/
def Obligations.MotorScalerIsExactRounding : Prop :=
  ∀ (cfg : Config) (raw : Int),
    ((pwmMotor cfg raw).toNat : ℤ) = ⌊min (max ((raw : ℚ) / 2 ^ cfg.frac) 0) 100 * (4095 / 100) + 1 / 2⌋ ∧
    (pwmMotor cfg raw).toNat = specPwmMotor cfg raw

/-- `CLAMP_S` and `SCALE_S`: the servo PWM value is the exact rational `clamp(v, 0, 180) * 2.2755 + 102` with `v = raw /
2^FRAC`, plus one half, rounded down; and it is the integer form (R80, R82, R84, R85). -/
def Obligations.ServoScalerIsExactRounding : Prop :=
  ∀ (cfg : Config) (raw : Int),
    ((pwmServo cfg raw).toNat : ℤ) =
      ⌊min (max ((raw : ℚ) / 2 ^ cfg.frac) 0) 180 * (22755 / 10000) + 102 + 1 / 2⌋ ∧
    (pwmServo cfg raw).toNat = specPwmServo cfg raw

/-- Range and shape of the motor scaler (R92): 0 to 4095, non-decreasing in `v`, 0 exactly when `cs * 40.95 < 1/2`, 4095
exactly when `cs * 40.95 >= 4094.5`; with `FRAC` = 0 only at 0 percent or less and only at 100 percent or more. -/
def Obligations.MotorPwmRangeAndShape : Prop :=
  ∀ (cfg : Config) (raw raw' : Int),
    (pwmMotor cfg raw).toNat ≤ 4095 ∧
    (raw ≤ raw' → (pwmMotor cfg raw).toNat ≤ (pwmMotor cfg raw').toNat) ∧
    ((pwmMotor cfg raw).toNat = 0 ↔ rawClamped cfg 100 raw * 819 < 10 * 2 ^ cfg.frac) ∧
    ((pwmMotor cfg raw).toNat = 4095 ↔ 81890 * 2 ^ cfg.frac ≤ rawClamped cfg 100 raw * 819) ∧
    (cfg.frac = 0 → ((pwmMotor cfg raw).toNat = 0 ↔ raw ≤ 0) ∧ ((pwmMotor cfg raw).toNat = 4095 ↔ 100 ≤ raw))

/-- Range and shape of the servo scaler (R93): 102 to 512, non-decreasing in `v`, 512 exactly when `ca * 2.2755 + 102 >=
511.5`; with `FRAC` from 0 to 4 only at 180 degrees or more. -/
def Obligations.ServoPwmRangeAndShape : Prop :=
  ∀ (cfg : Config) (raw raw' : Int),
    102 ≤ (pwmServo cfg raw).toNat ∧ (pwmServo cfg raw).toNat ≤ 512 ∧
    (raw ≤ raw' → (pwmServo cfg raw).toNat ≤ (pwmServo cfg raw').toNat) ∧
    ((pwmServo cfg raw).toNat = 512 ↔ 819000 * 2 ^ cfg.frac ≤ rawClamped cfg 180 raw * 4551) ∧
    (cfg.frac ≤ 4 → ((pwmServo cfg raw).toNat = 512 ↔ 180 * 2 ^ cfg.frac ≤ raw))

/-- `SPLIT_M`: `lo = pwm & 0xFF`, `hi = (pwm >> 8) & 0xFF`; `hi` is at most 0x0F and `{hi, lo}` reassembles the value
(R86). -/
def Obligations.MotorSplitReassembles : Prop :=
  ∀ pwm : Pwm,
    (lowByte pwm).toNat = pwm.toNat % 256 ∧ (highMotor pwm).toNat = pwm.toNat / 256 % 256 ∧
    (highMotor pwm).toNat ≤ 0x0F ∧ (highMotor pwm).toNat * 256 + (lowByte pwm).toNat = pwm.toNat

/-- `SPLIT_S`: `hi` is bit 8 alone; `{hi[0], lo}` is the value up to 511 and the value less 512 at 512 (R87); `ovf` is 1
exactly above 511 (R88). -/
def Obligations.ServoSplitDropsBitNine : Prop :=
  ∀ pwm : Pwm,
    (lowByte pwm).toNat = pwm.toNat % 256 ∧ (highServo pwm).toNat = pwm.toNat / 256 % 2 ∧
    (pwm.toNat ≤ 511 → (highServo pwm).toNat * 256 + (lowByte pwm).toNat = pwm.toNat) ∧
    (pwm.toNat = 512 → (highServo pwm).toNat * 256 + (lowByte pwm).toNat = pwm.toNat - 512) ∧
    (servoOvf pwm = true ↔ 511 < pwm.toNat)

/-- For a SERVO command with a valid channel the flag is 1 exactly when the value exceeds 511, that is when it is 512;
the bytes sent are the split of the value either way, so both 0 at 512, and the code stays OK; every other command has
flag 0 (R88, with R93 and R148). -/
def Obligations.ServoOverflowWritesZero : Prop :=
  ∀ (cfg : Config) (ch : Nat) (raw : Int), 1 ≤ ch → ch ≤ 8 →
    ((planOf cfg (.servo ch raw)).ovf = true ↔ 511 < (pwmServo cfg raw).toNat) ∧
    ((planOf cfg (.servo ch raw)).ovf = true ↔ (pwmServo cfg raw).toNat = 512) ∧
    (planOf cfg (.servo ch raw)).code = .ok ∧
    (planOf cfg (.servo ch raw)).writes =
      [ toChip (specServoReg ch 0) ((pwmServo cfg raw).toNat % 256),
        toChip (specServoReg ch 1) ((pwmServo cfg raw).toNat / 256 % 2) ] ∧
    ((planOf cfg (.servo ch raw)).ovf = true →
      (planOf cfg (.servo ch raw)).writes = [toChip (specServoReg ch 0) 0, toChip (specServoReg ch 1) 0]) ∧
    (∀ i, (∀ c r, i ≠ .servo c r) → (planOf cfg i).ovf = false)

/-- No two channels share a register: the commands of two different channels, servo or motor, name no common register
(R95). -/
def Obligations.ChannelsShareNoRegister : Prop :=
  ∀ (cfg : Config) (i j : Instr), cfg.valid = true → channelValid cfg i → channelValid cfg j →
    i ≠ .init → j ≠ .init →
    (∀ c r c' r', i = .servo c r → j = .servo c' r' → c ≠ c') →
    (∀ m, motorOf i = some m → motorOf j ≠ some m) →
    ∀ a ∈ (planOf cfg i).regs, a ∉ (planOf cfg j).regs

/-- The rest of the map: no command but INIT writes below 0x08 or above the last motor block, nor offsets 2 and 3 of a
register block (R42, R43, R45). -/
def Obligations.CommandsStayInsideTheirBlocks : Prop :=
  ∀ (cfg : Config) (i : Instr), cfg.valid = true → i ≠ .init → ∀ w ∈ (planOf cfg i).writes,
    w.target = .chip ∧ 0x08 ≤ w.reg.toNat ∧ w.reg.toNat < 0x28 + 8 * cfg.nMotor ∧ w.reg.toNat % 4 < 2

/-! ### The commands: result, completion, error -/

/-- INIT (R101): the seven writes in this exact order, then OK. -/
def Obligations.InitSendsBringUpSequence : Prop :=
  ∀ s : State, SendsInOrder .init
    [ ⟨.reset, s.cfg.swrstReg, s.cfg.swrstVal⟩,
      toChip s.cfg.prescaleReg 0x78,
      ⟨.chip, s.cfg.allOffReg[0], s.cfg.allOffVal[0]⟩,
      ⟨.chip, s.cfg.allOffReg[1], s.cfg.allOffVal[1]⟩,
      ⟨.chip, s.cfg.allOffReg[2], s.cfg.allOffVal[2]⟩,
      ⟨.chip, s.cfg.allOffReg[3], s.cfg.allOffVal[3]⟩,
      ⟨.chip, s.cfg.modeReg, s.cfg.wakeVal⟩ ] 0#4 s

/-- MOTOR.FWD (R102): `(base, lo)`, `(base+1, hi)`, `(base+4, 0)`, `(base+5, 0)`, then OK; InvalidChannel = 2 at once for
a channel outside 1 to `N_MOTOR`. -/
def Obligations.MotorFwdSendsForwardPairFirst : Prop :=
  ∀ (s : State) (ch : Nat) (raw : Int),
    (1 ≤ ch ∧ ch ≤ s.cfg.nMotor → SendsInOrder (.motorFwd ch raw)
      [ toChip (specMotorReg ch 0) (specPwmMotor s.cfg raw % 256), toChip (specMotorReg ch 1) (specPwmMotor s.cfg raw / 256),
        toChip (specMotorReg ch 4) 0, toChip (specMotorReg ch 5) 0 ] 0#4 s) ∧
    (¬ (1 ≤ ch ∧ ch ≤ s.cfg.nMotor) → AnsweredAtOnce (.motorFwd ch raw) 2#4 s)

/-- MOTOR.REV (R103): `(base+4, lo)`, `(base+5, hi)`, `(base, 0)`, `(base+1, 0)`, then OK; InvalidChannel = 2 at once for
a channel outside 1 to `N_MOTOR`. -/
def Obligations.MotorRevSendsReversePairFirst : Prop :=
  ∀ (s : State) (ch : Nat) (raw : Int),
    (1 ≤ ch ∧ ch ≤ s.cfg.nMotor → SendsInOrder (.motorRev ch raw)
      [ toChip (specMotorReg ch 4) (specPwmMotor s.cfg raw % 256), toChip (specMotorReg ch 5) (specPwmMotor s.cfg raw / 256),
        toChip (specMotorReg ch 0) 0, toChip (specMotorReg ch 1) 0 ] 0#4 s) ∧
    (¬ (1 ≤ ch ∧ ch ≤ s.cfg.nMotor) → AnsweredAtOnce (.motorRev ch raw) 2#4 s)

/-- MOTOR.OFF (R104): the four zero writes, then OK; InvalidChannel = 2 at once for a channel outside 1 to `N_MOTOR`. -/
def Obligations.MotorDirOffSendsFourZeros : Prop :=
  ∀ (s : State) (ch : Nat),
    (1 ≤ ch ∧ ch ≤ s.cfg.nMotor → SendsInOrder (.motorDirOff ch) (specZeroWrites ch) 0#4 s) ∧
    (¬ (1 ≤ ch ∧ ch ≤ s.cfg.nMotor) → AnsweredAtOnce (.motorDirOff ch) 2#4 s)

/-- MOTOR.BAD (R105): the four zero writes, then InvalidDirection = 1; InvalidChannel = 2 at once for a channel outside 1
to `N_MOTOR`; a failed write gives TransportError instead. -/
def Obligations.MotorBadZeroesThenReportsDirection : Prop :=
  ∀ (s : State) (ch : Nat),
    (1 ≤ ch ∧ ch ≤ s.cfg.nMotor → SendsInOrder (.motorBad ch) (specZeroWrites ch) 1#4 s) ∧
    (¬ (1 ≤ ch ∧ ch ≤ s.cfg.nMotor) → AnsweredAtOnce (.motorBad ch) 2#4 s)

/-- MOTOROFF (R106): the four zero writes, then OK; InvalidChannel = 2 at once for a channel outside 1 to `N_MOTOR`. -/
def Obligations.MotorOffSendsFourZeros : Prop :=
  ∀ (s : State) (ch : Nat),
    (1 ≤ ch ∧ ch ≤ s.cfg.nMotor → SendsInOrder (.motorOff ch) (specZeroWrites ch) 0#4 s) ∧
    (¬ (1 ≤ ch ∧ ch ≤ s.cfg.nMotor) → AnsweredAtOnce (.motorOff ch) 2#4 s)

/-- SERVO (R107): `(base, lo)`, `(base+1, hi)` with `hi` one bit, then OK with `ovf` (response value 8) exactly above 511;
InvalidChannel = 2 at once for a channel outside 1 to 8. -/
def Obligations.ServoSendsLowThenHigh : Prop :=
  ∀ (s : State) (ch : Nat) (raw : Int),
    (1 ≤ ch ∧ ch ≤ 8 → SendsInOrder (.servo ch raw)
      [ toChip (specServoReg ch 0) (specPwmServo s.cfg raw % 256),
        toChip (specServoReg ch 1) (specPwmServo s.cfg raw / 256 % 2) ]
      (if 511 < specPwmServo s.cfg raw then 8#4 else 0#4) s) ∧
    (¬ (1 ≤ ch ∧ ch ≤ 8) → AnsweredAtOnce (.servo ch raw) 2#4 s)

/-- `InvalidChannel` is detected at decode, before any write: `REG` and `WLOG` are untouched, whatever the form (R122,
R123). -/
def Obligations.InvalidChannelTouchesNothing : Prop :=
  ∀ (s : State) (i : Instr), ¬ channelValid s.cfg i → s.phase = .idle → s.pins.cmdValid = true →
    ∃ t, exec i s = .next t ∧ t.phase = .resp ∧ rspCode t.rsp = 2#3 ∧ rspOvf t.rsp = 0#1 ∧
      t.reg = s.reg ∧ t.wlog = s.wlog

/-- When several conditions apply the response reports the first of IllegalCommand, InvalidChannel, TransportError,
InvalidDirection (R127). -/
def Obligations.ConditionsInPriorityOrder : Prop :=
  (∀ (s : State), s.pins.rst = false → s.phase = .idle → s.pins.cmdValid = true →
    s.pins.cmd.toNat / 2 ^ 24 % 16 ≠ 0 →
    ∃ t, step s = .next t ∧ t.phase = .resp ∧ t.rsp = 4#4 ∧ t.wlog = s.wlog) ∧
  (∀ (s : State) (i : Instr), s.pins.rst = false → s.phase = .idle → s.pins.cmdValid = true →
    decode s.pins.cmd = .ok i → ¬ channelValid s.cfg i →
    ∃ t, step s = .next t ∧ t.phase = .resp ∧ t.rsp = 2#4 ∧ t.wlog = s.wlog) ∧
  (∀ (s : State) (i : Instr), s.phase = .busy → s.widx.toNat < (planOf s.cfg i).writes.length →
    s.pins.wrReady = true → s.pins.wrErr = true →
    ∃ t, exec i s = .next t ∧ t.phase = .resp ∧ t.rsp = 3#4) ∧
  (∀ (s : State) (ch : Nat), 1 ≤ ch ∧ ch ≤ s.cfg.nMotor → s.phase = .busy → s.widx = 3#3 →
    s.pins.wrReady = true → s.pins.wrErr = false →
    ∃ t, exec (.motorBad ch) s = .next t ∧ t.phase = .resp ∧ t.rsp = 1#4)

/-- The out-of-range speed or angle is never an error: no value of `val` changes the response code (R126). -/
def Obligations.SpeedAndAngleNeverFail : Prop :=
  ∀ (cfg : Config) (ch : Nat) (raw : Int),
    (1 ≤ ch ∧ ch ≤ cfg.nMotor → (planOf cfg (.motorFwd ch raw)).code = .ok ∧ (planOf cfg (.motorRev ch raw)).code = .ok) ∧
    (1 ≤ ch ∧ ch ≤ 8 → (planOf cfg (.servo ch raw)).code = .ok)

/-! ### Whole commands -/

/-- From Idle, a command of a valid channel whose writes are all acknowledged takes one edge to be accepted, one for each
write of its list and one for its response; then the block is Idle again, `WLOG` has gained exactly the write list in
order, and `REG` has every chip write applied in order (R100, R49). The count of edges is the model's choice (log 19). -/
def Obligations.AcknowledgedCommandRunsToItsResponse : Prop :=
  ∀ (s : State) (w : CmdWord) (i : Instr) (rest : List Pins),
    decode w = .ok i → channelValid s.cfg i → s.phase = .idle →
    let plan := planOf s.cfg i
    let n := plan.writes.length
    s.inbox = Pins.offer w :: (List.replicate n Pins.ack ++ Pins.take :: rest) →
    Host.Core.run Sys2Proof.core (n + 2) s = .next
      { s with
        phase := .idle
        cmdr  := w
        widx  := BitVec.ofNat 3 n
        rsp   := packRsp plan.code plan.ovf
        reg   := replay s.reg (plan.writes.map fun x => ⟨x, .ack⟩)
        wlog  := s.wlog ++ plan.writes.map fun x => ⟨x, .ack⟩
        inbox := rest
        tick  := s.tick + (n + 2) }

/-- A command whose write `k` is answered `err` has sent `k + 1` writes, the last of them failed, and is answered
`(TransportError, 0)`; the acknowledged writes stay in effect and the rest is never sent (R109, R124). The count of edges
is the model's choice (log 19). -/
def Obligations.FailedWriteCutsCommandShort : Prop :=
  ∀ (s : State) (w : CmdWord) (i : Instr) (rest : List Pins) (k : Nat) (wk : Write),
    decode w = .ok i → s.phase = .idle →
    let plan := planOf s.cfg i
    plan.writes[k]? = some wk →
    s.inbox = Pins.offer w :: (List.replicate k Pins.ack ++ Pins.nak :: Pins.take :: rest) →
    Host.Core.run Sys2Proof.core (k + 3) s = .next
      { s with
        phase := .idle
        cmdr  := w
        widx  := BitVec.ofNat 3 k
        rsp   := 3#4
        reg   := replay s.reg (plan.acked k)
        wlog  := s.wlog ++ plan.acked k ++ [⟨wk, .err⟩]
        inbox := rest
        tick  := s.tick + (k + 3) }

/-- Write counts: INIT 7, every motor form with a valid channel 4, SERVO with a valid channel 2, and 0 for a command
answered InvalidChannel or IllegalCommand (R109). -/
def Obligations.WriteCounts : Prop :=
  (∀ cfg i, channelValid cfg i →
    (planOf cfg i).writes.length = if i = .init then 7 else if (motorOf i).isSome then 4 else 2) ∧
  (∀ cfg i, ¬ channelValid cfg i → (planOf cfg i).writes.length = 0) ∧
  (∀ cfg w, w.toNat / 2 ^ 24 % 16 ≠ 0 → (planOfWord cfg w).writes.length = 0)

/-! ### Frames -/

/-- What no command changes at any edge, and when it changes the rest: the parameters, the input pins and the record of
withdrawn writes never; `CMDR` only at acceptance; `RSP` only on entering Resp; `REG` and `WLOG` only while Busy; `widx`
only at acceptance and at an acknowledged write. -/
def Obligations.CommandRegisterFrame : Prop :=
  ∀ (i : Instr) (s t : State), exec i s = .next t →
    t.cfg = s.cfg ∧ t.inbox = s.inbox ∧ t.tick = s.tick ∧ t.withdrawn = s.withdrawn ∧
    (s.phase ≠ .idle ∨ s.pins.cmdValid = false → t.cmdr = s.cmdr) ∧
    (s.phase = .resp ∨ t.phase ≠ .resp → t.rsp = s.rsp) ∧
    (s.phase ≠ .busy ∨ s.pins.wrReady = false → t.reg = s.reg ∧ t.wlog = s.wlog) ∧
    (s.phase = .resp ∨ s.phase = .idle ∧ s.pins.cmdValid = false ∨
      s.phase = .busy ∧ (s.pins.wrReady = false ∨ s.pins.wrErr = true) → t.widx = s.widx)

/-- Memory frame: for every address that is not the one of the write the command offers at `widx`, `REG` reads as before
(R44); the offered write to the chip, acknowledged, reads back. -/
def Obligations.CommandMemoryFrame : Prop :=
  ∀ (i : Instr) (s t : State), exec i s = .next t →
    (∀ (w : Write) (a : Nat), s.phase = .busy → (planOf s.cfg i).writes[s.widx.toNat]? = some w →
      (w.target = .chip → a ≠ w.reg.toNat) → t.reg.read a = s.reg.read a) ∧
    (∀ w : Write, s.phase = .busy → (planOf s.cfg i).writes[s.widx.toNat]? = some w → w.target = .chip →
      s.pins.wrReady = true → s.pins.wrErr = false → t.reg.read w.reg.toNat = some w.data) ∧
    (s.phase ≠ .busy → ∀ a, t.reg.read a = s.reg.read a)

/-- A motor command, of any of the five forms, changes no register but the four of its own motor (R111, R43). -/
def Obligations.MotorCommandFrame : Prop :=
  ∀ (i : Instr) (m : Nat) (s t : State), motorOf i = some m → exec i s = .next t →
    ∀ a, a ≠ (specMotorReg m 0).toNat → a ≠ (specMotorReg m 1).toNat → a ≠ (specMotorReg m 4).toNat →
      a ≠ (specMotorReg m 5).toNat → t.reg.read a = s.reg.read a

/-- SERVO changes no register but the two of its own channel (R111, R42). -/
def Obligations.ServoCommandFrame : Prop :=
  ∀ (ch : Nat) (raw : Int) (s t : State), exec (.servo ch raw) s = .next t →
    ∀ a, a ≠ (specServoReg ch 0).toNat → a ≠ (specServoReg ch 1).toNat → t.reg.read a = s.reg.read a

/-! ### The step -/

/-- A step runs the decoded command: while a command is in flight, or one is offered to the Idle block, and `rst` is 0,
step is exec of the decoded instruction, and then the next pins come up. -/
def Obligations.StepRunsDecodedCommand : Prop :=
  ∀ (s : State) (i : Instr), s.pins.rst = false →
    (s.phase = .idle ∧ s.pins.cmdValid = true ∧ decode s.pins.cmd = .ok i ∨ s.phase ≠ .idle ∧ decode s.cmdr = .ok i) →
    (∀ t, exec i s = .next t → step s = .next { t with inbox := s.inbox.tail, tick := s.tick + 1 }) ∧
    (∀ r, exec i s = .fault r → step s = .fault r)

/-- A word with `rsv` not 0 is accepted, no write is sent, and the response is IllegalCommand = 4 with `ovf` 0 (R65,
R125). -/
def Obligations.IllegalWordIsAnswered : Prop :=
  ∀ s : State, s.pins.rst = false → s.phase = .idle → s.pins.cmdValid = true → s.pins.cmd.toNat / 2 ^ 24 % 16 ≠ 0 →
    step s = .next
      { s with
        phase := .resp, cmdr := s.pins.cmd, widx := 0#3, rsp := 4#4, inbox := s.inbox.tail, tick := s.tick + 1 }

/-- Delivery ends a command, whatever its response was: the block is Idle and nothing else of it changes (R129, R100). -/
def Obligations.DeliveryReturnsToIdle : Prop :=
  ∀ s : State, s.pins.rst = false → s.phase = .resp → s.pins.rspReady = true →
    step s = .next { s with phase := .idle, inbox := s.inbox.tail, tick := s.tick + 1 }

/-- An edge without a transfer changes nothing of the block and holds every output (R74). -/
def Obligations.NoTransferHoldsThePorts : Prop :=
  ∀ s : State, s.Inv → s.pins.rst = false →
    (s.phase = .idle ∧ s.pins.cmdValid = false ∨ s.phase = .busy ∧ s.pins.wrReady = false ∨
      s.phase = .resp ∧ s.pins.rspReady = false) →
    step s = .next { s with inbox := s.inbox.tail, tick := s.tick + 1 } ∧
    ({ s with inbox := s.inbox.tail, tick := s.tick + 1 } : State).outputs = s.outputs

/-- The ports follow the phase (R71): ready exactly in Idle, a write with the constant device address 0x6C exactly in
Busy, a response exactly in Resp; the offered write is `WL[widx]` of the command in `CMDR` (R23). -/
def Obligations.PortsFollowThePhase : Prop :=
  ∀ (s : State) (i : Instr), s.Inv →
    (s.outputs.cmdReady = true ↔ s.phase = .idle) ∧ (s.outputs.wrValid = true ↔ s.phase = .busy) ∧
    (s.outputs.rspValid = true ↔ s.phase = .resp) ∧ s.outputs.wrDev = 0x6C#7 ∧
    (s.phase = .busy → decode s.cmdr = .ok i → ∃ w, (planOf s.cfg i).writes[s.widx.toNat]? = some w ∧
      s.outputs.write = some (if w.target = .chip then 0#1 else 1#1, w.reg, w.data)) ∧
    (s.phase = .resp → s.outputs.response = some (rspCode s.rsp, rspOvf s.rsp))

/-- The word is sampled at acceptance only: while a command is in flight, what the command port shows has no effect (R74,
R21). -/
def Obligations.CommandPortIgnoredInFlight : Prop :=
  ∀ (s : State) (p : Pins) (rest : List Pins) (v : Bool) (c : CmdWord), s.phase ≠ .idle → s.inbox = p :: rest →
    step { s with inbox := { p with cmdValid := v, cmd := c } :: rest } = step s

/-- The parameters are immutable: no step changes them (R7). -/
def Obligations.ConfigurationIsImmutable : Prop :=
  ∀ s t : State, step s = .next t → t.cfg = s.cfg

/-- The write index (R22): 0 at acceptance, one more at an acknowledged write, else unchanged; never a wrap. -/
def Obligations.WriteIndexMovesByOne : Prop :=
  ∀ s t : State, s.Inv → s.pins.rst = false → step s = .next t →
    (s.phase = .idle → s.pins.cmdValid = true → t.widx.toNat = 0) ∧
    (s.phase = .busy → s.pins.wrReady = true → s.pins.wrErr = false → t.widx.toNat = s.widx.toNat + 1) ∧
    (s.phase = .idle ∧ s.pins.cmdValid = false ∨ s.phase = .busy ∧ (s.pins.wrReady = false ∨ s.pins.wrErr = true) ∨
      s.phase = .resp → t.widx = s.widx)

/-- The phases: Idle goes to Busy or Resp only by acceptance, Busy to Resp only by a completed write, Resp to Idle only by
delivery; there is no other way but reset (R100, R23). -/
def Obligations.PhasesFollowTheSequencer : Prop :=
  ∀ s t : State, s.pins.rst = false → step s = .next t →
    (s.phase = .idle → s.pins.cmdValid = false → t.phase = .idle) ∧
    (s.phase = .idle → s.pins.cmdValid = true →
      t.phase = if (planOfWord s.cfg s.pins.cmd).writes = [] then .resp else .busy) ∧
    (s.phase = .busy → t.phase = .busy ∨ t.phase = .resp ∧ s.pins.wrReady = true) ∧
    (s.phase = .resp → t.phase = if s.pins.rspReady = true then .idle else .resp)

/-- `WLOG` only grows, by the offered write with the transport's answer, and only at a write transfer (R27, R44, R49). -/
def Obligations.LogGainsTheOfferedWrite : Prop :=
  ∀ s t : State, step s = .next t →
    (t.wlog = s.wlog) ∨
    (∃ w, s.pins.rst = false ∧ s.pins.wrReady = true ∧ s.offeredWrite = some w ∧
      t.wlog = s.wlog ++ [⟨w, if s.pins.wrErr = true then .err else .ack⟩])

/-- Without a reset in between, `REG` is a function of `WLOG` (R27): it stays what replaying the log gives. -/
def Obligations.ImageIsReplayOfLog : Prop :=
  ∀ (base : Memory) (s t : State), s.pins.rst = false → step s = .next t → s.reg = replay base s.wlog →
    t.reg = replay base t.wlog

/-- The block does not depend on the register image or on earlier commands (R20): with another `REG`, another `WLOG` and
another record of withdrawn writes the step ends in the same block state, sends the same writes and gets the same log
entries. -/
def Obligations.BlockIgnoresImageAndHistory : Prop :=
  ∀ (s t : State) (reg : Memory) (wlog : List LogEntry) (cuts : List Withdrawn), step s = .next t →
    ∃ t', step { s with reg := reg, wlog := wlog, withdrawn := cuts } = .next t' ∧
      t'.phase = t.phase ∧ t'.cmdr = t.cmdr ∧ t'.widx = t.widx ∧ t'.rsp = t.rsp ∧ t'.cfg = t.cfg ∧
      t'.inbox = t.inbox ∧ t'.tick = t.tick ∧ t'.outputs = t.outputs ∧
      ∃ new, t.wlog = s.wlog ++ new ∧ t'.wlog = wlog ++ new

/-! ### Reset -/

/-- A reset edge (R140): Idle, `widx` 0, no port valid but the command port ready, no transfer and so no new entry in
`WLOG`; from every state, whatever the other pins. The model's record of withdrawn writes (log 23) gains the write that
was offered, with the length of `WLOG`. -/
def Obligations.ResetEdgeReturnsToIdle : Prop :=
  ∀ s : State, s.pins.rst = true →
    ∃ t, step s = .next t ∧ t.phase = .idle ∧ t.widx = 0#3 ∧ t.wlog = s.wlog ∧ t.cfg = s.cfg ∧
      t.inbox = s.inbox.tail ∧ t.tick = s.tick + 1 ∧
      t.withdrawn = s.withdrawn ++ (s.offeredWrite.map fun w => ⟨w, s.wlog.length⟩).toList ∧
      t.outputs.cmdReady = true ∧ t.outputs.wrValid = false ∧ t.outputs.rspValid = false

/-- A reset edge in mid-command or not (R141, R142): the command is abandoned, with no response and no further write;
`WLOG` is as it was; a register other than the withdrawn write's is as it was, that one holds its old byte or the new
one, and without an offered write no register changes. -/
def Obligations.ResetChangesAtMostTheWithdrawnRegister : Prop :=
  ∀ s t : State, s.pins.rst = true → step s = .next t →
    t.phase = .idle ∧ t.wlog = s.wlog ∧
    (∀ a, t.reg.read a = s.reg.read a ∨
      ∃ w, s.offeredWrite = some w ∧ w.target = .chip ∧ w.reg.toNat = a ∧ t.reg.read a = some w.data) ∧
    (s.phase ≠ .busy → t.reg = s.reg)

/-- The state after the first reset (R31): Idle, `widx` 0, `WLOG` empty, the command port ready and nothing offered; every
register of `REG` holds a byte, and which one is a free value (log 5). The place of the parameters and of the record of
withdrawn writes in State is the model's choice (log 8, log 9, log 23). -/
def Obligations.ResetStateIsIdle : Prop :=
  State.reset.phase = .idle ∧ State.reset.widx = 0#3 ∧ State.reset.wlog = [] ∧
  State.reset.withdrawn = [] ∧ (∀ a < 256, State.reset.reg.read a = some (Config.powerOnByte a)) ∧
  State.reset.outputs.cmdReady = true ∧ State.reset.outputs.wrValid = false ∧ State.reset.outputs.rspValid = false ∧
  State.reset.cfg.nMotor = 2 ∧ State.reset.cfg.frac = 0 ∧
  State.reset.cfg.wakeVal.getLsbD State.reset.cfg.sleepBit = false

/-! ### Invariants -/

/-- The invariant holds after reset. -/
def Obligations.ResetMeetsInvariant : Prop := State.reset.Inv

/-- Every step keeps the invariant: the canonical form of `REG`, by which each of the 256 registers holds a byte; while
Busy, a write to offer and exactly the writes before it in `WLOG`, acknowledged and in order, with no reset between them,
and standing in `REG`; in Resp, the command's own response after its whole list, or TransportError after the failed
write. -/
def Obligations.StepKeepsInvariant : Prop :=
  ∀ s t : State, s.Inv → step s = .next t → t.Inv

/-- No word and no behaviour of the pins makes the block stop (R70): every run from a state with the invariant goes on,
and every state it passes has the invariant. -/
def Obligations.RunsNeverStop : Prop :=
  ∀ (n : Nat) (s : State), s.Inv → ∃ t, Host.Core.run Sys2Proof.core n s = .next t ∧ State.Inv t

/-- The response record (R68): in Resp the code is 0 to 4, and `ovf` is 1 only for a SERVO command answered OK whose
value exceeds 511. -/
def Obligations.ResponseRecordIsLegal : Prop :=
  ∀ s : State, s.Inv → s.phase = .resp →
    (rspCode s.rsp).toNat ≤ 4 ∧
    (rspOvf s.rsp = 1#1 → rspCode s.rsp = 0#3 ∧
      ∃ ch raw, decode s.cmdr = .ok (.servo ch raw) ∧ 1 ≤ ch ∧ ch ≤ 8 ∧ 511 < specPwmServo s.cfg raw)

/-- Mutual exclusion of a motor's pairs (R110): when a motor command is answered OK or InvalidDirection, the forward pair
or the reverse pair of its motor is zero in `REG`. -/
def Obligations.MotorPairsExcludeEachOther : Prop :=
  ∀ (s : State) (i : Instr) (m : Nat), s.Inv → s.phase = .resp → decode s.cmdr = .ok i → motorOf i = some m →
    rspCode s.rsp = 0#3 ∨ rspCode s.rsp = 1#3 →
    pairZero s.reg (specMotorReg m 0) ∨ pairZero s.reg (specMotorReg m 4)

/-! ### Hazards -/

/-- Both pairs of a motor non-zero in mid-command (R146): a motor running in one direction and commanded to the other with
a non-zero PWM value has both pairs non-zero once the first two writes are acknowledged. The count of edges is the model's
choice (log 19). -/
def Obligations.ReversalDrivesBothPairs : Prop :=
  ∀ (s : State) (w : CmdWord) (m : Nat) (raw : Int) (rest : List Pins), s.cfg.valid = true →
    1 ≤ m ∧ m ≤ s.cfg.nMotor → s.phase = .idle → (pwmMotor s.cfg raw).toNat ≠ 0 →
    s.inbox = Pins.offer w :: Pins.ack :: Pins.ack :: rest →
    (decode w = .ok (.motorRev m raw) → pairNonzero s.reg (specMotorReg m 0) →
      ∃ t : State, Host.Core.run Sys2Proof.core 3 s = .next t ∧ t.phase = .busy ∧
        pairNonzero t.reg (specMotorReg m 0) ∧ pairNonzero t.reg (specMotorReg m 4)) ∧
    (decode w = .ok (.motorFwd m raw) → pairNonzero s.reg (specMotorReg m 4) →
      ∃ t : State, Host.Core.run Sys2Proof.core 3 s = .next t ∧ t.phase = .busy ∧
        pairNonzero t.reg (specMotorReg m 0) ∧ pairNonzero t.reg (specMotorReg m 4))

/-- The way to avoid it (R146): once a pair of a motor is zero, as after MOTOROFF, no edge of a command in the other
direction makes it non-zero. -/
def Obligations.OffThenNewDirectionIsClean : Prop :=
  ∀ (s t : State) (m : Nat) (raw : Int), s.cfg.valid = true → 1 ≤ m ∧ m ≤ s.cfg.nMotor →
    (exec (.motorFwd m raw) s = .next t → pairZero s.reg (specMotorReg m 4) → pairZero t.reg (specMotorReg m 4)) ∧
    (exec (.motorRev m raw) s = .next t → pairZero s.reg (specMotorReg m 0) → pairZero t.reg (specMotorReg m 0))

/-- Torn PWM value (R147): between the two writes of SERVO the pair holds the new low byte with the old high byte. -/
def Obligations.TornServoValueIsVisible : Prop :=
  ∀ (s : State) (c : Nat) (raw : Int), 1 ≤ c ∧ c ≤ 8 → s.phase = .busy → s.widx = 0#3 → s.pins.wrReady = true →
    s.pins.wrErr = false →
    ∃ t, exec (.servo c raw) s = .next t ∧ t.phase = .busy ∧
      t.reg.read (specServoReg c 0).toNat = some (BitVec.ofNat 8 (specPwmServo s.cfg raw % 256)) ∧
      t.reg.read (specServoReg c 1).toNat = s.reg.read (specServoReg c 1).toNat

/-- The premise of R143 and R145, `State.chipTimingDefined`, is the model's own reading of R145 (log 21): the last INIT was
sent whole and acknowledged, and no RESET write was sent, offered or withdrawn since. INIT answered OK establishes it,
and every step keeps it unless the block is then sending an INIT. A RESET write that `rst` withdraws at INIT write 0 may
have landed (R141), so it ends the premise too (log 23; `CutInitEndsChipTiming`). -/
def Obligations.InitDefinesChipTiming : Prop :=
  (∀ s : State, s.Inv → s.phase = .resp → decode s.cmdr = .ok .init → rspCode s.rsp = 0#3 → s.chipTimingDefined) ∧
  (∀ s t : State, s.chipTimingDefined → step s = .next t → ¬ t.sendingInit → t.chipTimingDefined)

/-- `REG` is a map from each 8-bit register address to one byte (R26, R40): in every state with the invariant each of the
256 registers reads as a byte and no other address does, and so in the state after a step. -/
def Obligations.EveryRegisterHoldsAByte : Prop :=
  ∀ s t : State, s.Inv → step s = .next t →
    (∀ a : RegAddr, ∃ b, s.reg.read a.toNat = some b) ∧ (∀ a : RegAddr, ∃ b, t.reg.read a.toNat = some b) ∧
    (∀ a, 256 ≤ a → s.reg.read a = none ∧ t.reg.read a = none)

/-- An INIT cut short leaves the chip's timing undefined (R145, R149): after a reset edge while an INIT is being sent,
whichever of its writes was offered, and after an INIT answered TransportError, the premise does not hold. The premise is
the model's own reading of R145 (log 21), and that a withdrawn RESET write may have landed is R141 (log 23). -/
def Obligations.CutInitEndsChipTiming : Prop :=
  (∀ s t : State, s.Inv → s.sendingInit → s.pins.rst = true → step s = .next t → ¬ t.chipTimingDefined) ∧
  (∀ s : State, s.Inv → s.phase = .resp → decode s.cmdr = .ok .init → rspCode s.rsp = 3#3 → ¬ s.chipTimingDefined)
end

