-- ==== Sys2Proof/Laws/Decode.lean ====
section
/-!
SUPPORT. The command word: no two rows of the table overlap, what the fields of a packed word are, and that the choice
of a form looks at the top byte only.
-/

namespace Sys2Proof

/-- "The seven patterns are pairwise disjoint" (30_encoding.md R64): two rows differ in a bit both examine. -/
theorem formTable_pairwise_disjoint :
    formTable.Pairwise fun a b => a.bits &&& (a.mask &&& b.mask) ≠ b.bits &&& (a.mask &&& b.mask) := by decide

/-- Every row examines the reserved bits and wants them 0 (R65). -/
theorem formTable_reserved :
    ∀ r ∈ formTable, r.mask &&& 0x0F000000#32 = 0x0F000000#32 ∧ r.bits &&& 0x0F000000#32 = 0#32 := by decide

/-- No row examines a bit below the top byte. -/
theorem formTable_top_byte : ∀ r ∈ formTable, r.mask &&& 0x00FFFFFF#32 = 0#32 := by decide

/-- A packed word bit by bit (R60). -/
theorem getLsbD_packWord (op dir : BitVec 2) (chan : BitVec 8) (val : BitVec 16) (i : Nat) :
    (packWord op dir chan val).getLsbD i =
      if i < 16 then val.getLsbD i else if i < 24 then chan.getLsbD (i - 16) else if i < 28 then false
      else if i < 30 then dir.getLsbD (i - 28) else op.getLsbD (i - 30) := by
  change @BitVec.getLsbD (2 + 2 + 4 + 8 + 16) (op ++ dir ++ 0#4 ++ chan ++ val) i = _
  simp only [BitVec.getLsbD_append, BitVec.getLsbD_zero]
  simp only [Nat.sub_sub, Nat.reduceAdd]
  split_ifs <;> first | rfl | (exfalso; omega)

@[simp] theorem rsvField_packWord (op dir : BitVec 2) (chan : BitVec 8) (val : BitVec 16) :
    rsvField (packWord op dir chan val) = 0#4 := by
  apply BitVec.eq_of_getLsbD_eq
  intro i hi
  simp only [rsvField, BitVec.getLsbD_extractLsb', getLsbD_packWord, hi, decide_true, Bool.true_and]
  rw [if_neg (by omega), if_neg (by omega), if_pos (by omega), BitVec.getLsbD_zero]

@[simp] theorem chanField_packWord (op dir : BitVec 2) (chan : BitVec 8) (val : BitVec 16) :
    chanField (packWord op dir chan val) = chan := by
  apply BitVec.eq_of_getLsbD_eq
  intro i hi
  simp only [chanField, BitVec.getLsbD_extractLsb', getLsbD_packWord, hi, decide_true, Bool.true_and]
  rw [if_neg (by omega), if_pos (by omega), Nat.add_sub_cancel_left]

@[simp] theorem valField_packWord (op dir : BitVec 2) (chan : BitVec 8) (val : BitVec 16) :
    valField (packWord op dir chan val) = val := by
  apply BitVec.eq_of_getLsbD_eq
  intro i hi
  simp only [valField, BitVec.getLsbD_extractLsb', getLsbD_packWord, hi, decide_true, Bool.true_and]
  rw [if_pos (by omega), Nat.zero_add]

theorem getLsbD_low24 : ∀ i : Nat, i < 24 → (0x00FFFFFF#32).getLsbD i = true := by decide

/-- A mask of the top byte sees the top byte only. -/
theorem and_mask_congr {m w w' : CmdWord} (hm : m &&& 0x00FFFFFF#32 = 0#32)
    (h : ∀ i, 24 ≤ i → w.getLsbD i = w'.getLsbD i) : w &&& m = w' &&& m := by
  apply BitVec.eq_of_getLsbD_eq
  intro i _
  have hi := congrArg (BitVec.getLsbD · i) hm
  simp only [BitVec.getLsbD_and, BitVec.getLsbD_zero] at hi ⊢
  by_cases h24 : i < 24
  · rw [getLsbD_low24 i h24, Bool.and_true] at hi
    rw [hi, Bool.and_false, Bool.and_false]
  · rw [h i (by omega)]

theorem find_selects_congr {rows : List FormRow} {w w' : CmdWord}
    (hr : ∀ r ∈ rows, r.mask &&& 0x00FFFFFF#32 = 0#32) (h : ∀ i, 24 ≤ i → w.getLsbD i = w'.getLsbD i) :
    rows.find? (·.selects w) = rows.find? (·.selects w') := by
  induction rows with
  | nil => rfl
  | cons r rows ih =>
    simp only [List.find?_cons, FormRow.selects, and_mask_congr (hr r (by simp)) h]
    rw [show rows.find? (fun x => w &&& x.mask == x.bits) = _ from ih fun r hr' => hr r (by simp [hr'])]
    rfl

/-- The form depends on the top byte of the word only (R64). -/
theorem selectForm_congr {w w' : CmdWord} (h : ∀ i, 24 ≤ i → w.getLsbD i = w'.getLsbD i) :
    selectForm w = selectForm w' := by
  unfold selectForm
  rw [find_selects_congr formTable_top_byte h]

/-- The form of a packed word depends on its `op` and `dir` only. -/
theorem selectForm_packWord (op dir : BitVec 2) (chan : BitVec 8) (val : BitVec 16) :
    selectForm (packWord op dir chan val) = selectForm (packWord op dir 0#8 0#16) :=
  selectForm_congr fun i hi => by
    have h16 : ¬ i < 16 := by omega
    have h24 : ¬ i < 24 := by omega
    simp only [getLsbD_packWord, h16, h24, if_false]

/-- A channel that fits its field comes back (R63). -/
theorem toNat_chanBits {ch : Nat} (h : channelFits ch = true) : (chanBits ch).toNat = ch := by
  simp only [channelFits, decide_eq_true_eq] at h
  simp only [chanBits, BitVec.toNat_ofNat]
  omega

/-- A speed or angle that fits its field comes back (R63, R72). -/
theorem toInt_valBits {raw : Int} (h : rawFits raw = true) : (valBits raw).toInt = raw := by
  simp only [rawFits, Bool.and_eq_true, decide_eq_true_eq] at h
  rw [valBits, BitVec.toInt_ofInt]
  exact Int.bmod_eq_of_le (by omega) (by omega)

end Sys2Proof
end

