-- ==== Sys2Proof/Laws/State.lean ====
section
/-!
SUPPORT. What each named update of State does to each field, so that no later proof unfolds a record update.
-/

namespace Sys2Proof.Machine

/-! ### `latch` -/
@[simp] theorem State.latch_phase (s : State) (c : CmdWord) : (s.latch c).phase = s.phase := rfl
@[simp] theorem State.latch_cmdr (s : State) (c : CmdWord) : (s.latch c).cmdr = c := rfl
@[simp] theorem State.latch_widx (s : State) (c : CmdWord) : (s.latch c).widx = 0#3 := rfl
@[simp] theorem State.latch_rsp (s : State) (c : CmdWord) : (s.latch c).rsp = s.rsp := rfl
@[simp] theorem State.latch_reg (s : State) (c : CmdWord) : (s.latch c).reg = s.reg := rfl
@[simp] theorem State.latch_wlog (s : State) (c : CmdWord) : (s.latch c).wlog = s.wlog := rfl
@[simp] theorem State.latch_cfg (s : State) (c : CmdWord) : (s.latch c).cfg = s.cfg := rfl
@[simp] theorem State.latch_withdrawn (s : State) (c : CmdWord) : (s.latch c).withdrawn = s.withdrawn := rfl
@[simp] theorem State.latch_inbox (s : State) (c : CmdWord) : (s.latch c).inbox = s.inbox := rfl
@[simp] theorem State.latch_tick (s : State) (c : CmdWord) : (s.latch c).tick = s.tick := rfl

/-! ### `respond` -/
@[simp] theorem State.respond_phase (s : State) (c : RespCode) (o : Bool) : (s.respond c o).phase = .resp := rfl
@[simp] theorem State.respond_cmdr (s : State) (c : RespCode) (o : Bool) : (s.respond c o).cmdr = s.cmdr := rfl
@[simp] theorem State.respond_widx (s : State) (c : RespCode) (o : Bool) : (s.respond c o).widx = s.widx := rfl
@[simp] theorem State.respond_rsp (s : State) (c : RespCode) (o : Bool) : (s.respond c o).rsp = packRsp c o := rfl
@[simp] theorem State.respond_reg (s : State) (c : RespCode) (o : Bool) : (s.respond c o).reg = s.reg := rfl
@[simp] theorem State.respond_wlog (s : State) (c : RespCode) (o : Bool) : (s.respond c o).wlog = s.wlog := rfl
@[simp] theorem State.respond_cfg (s : State) (c : RespCode) (o : Bool) : (s.respond c o).cfg = s.cfg := rfl
@[simp] theorem State.respond_withdrawn (s : State) (c : RespCode) (o : Bool) : (s.respond c o).withdrawn = s.withdrawn := rfl
@[simp] theorem State.respond_inbox (s : State) (c : RespCode) (o : Bool) : (s.respond c o).inbox = s.inbox := rfl
@[simp] theorem State.respond_tick (s : State) (c : RespCode) (o : Bool) : (s.respond c o).tick = s.tick := rfl

/-! ### `deliver` -/
@[simp] theorem State.deliver_phase (s : State) : s.deliver.phase = .idle := rfl
@[simp] theorem State.deliver_cmdr (s : State) : s.deliver.cmdr = s.cmdr := rfl
@[simp] theorem State.deliver_widx (s : State) : s.deliver.widx = s.widx := rfl
@[simp] theorem State.deliver_rsp (s : State) : s.deliver.rsp = s.rsp := rfl
@[simp] theorem State.deliver_reg (s : State) : s.deliver.reg = s.reg := rfl
@[simp] theorem State.deliver_wlog (s : State) : s.deliver.wlog = s.wlog := rfl
@[simp] theorem State.deliver_cfg (s : State) : s.deliver.cfg = s.cfg := rfl
@[simp] theorem State.deliver_withdrawn (s : State) : s.deliver.withdrawn = s.withdrawn := rfl
@[simp] theorem State.deliver_inbox (s : State) : s.deliver.inbox = s.inbox := rfl
@[simp] theorem State.deliver_tick (s : State) : s.deliver.tick = s.tick := rfl

/-! ### `regWrite` -/
@[simp] theorem State.regWrite_phase (s : State) (w : Write) (a : Answer) : (s.regWrite w a).phase = s.phase := rfl
@[simp] theorem State.regWrite_cmdr (s : State) (w : Write) (a : Answer) : (s.regWrite w a).cmdr = s.cmdr := rfl
@[simp] theorem State.regWrite_widx (s : State) (w : Write) (a : Answer) : (s.regWrite w a).widx = s.widx := rfl
@[simp] theorem State.regWrite_rsp (s : State) (w : Write) (a : Answer) : (s.regWrite w a).rsp = s.rsp := rfl
@[simp] theorem State.regWrite_reg (s : State) (w : Write) (a : Answer) : (s.regWrite w a).reg = s.reg.apply w a := rfl
@[simp] theorem State.regWrite_wlog (s : State) (w : Write) (a : Answer) :
    (s.regWrite w a).wlog = s.wlog ++ [⟨w, a⟩] := rfl
@[simp] theorem State.regWrite_cfg (s : State) (w : Write) (a : Answer) : (s.regWrite w a).cfg = s.cfg := rfl
@[simp] theorem State.regWrite_withdrawn (s : State) (w : Write) (a : Answer) : (s.regWrite w a).withdrawn = s.withdrawn := rfl
@[simp] theorem State.regWrite_inbox (s : State) (w : Write) (a : Answer) : (s.regWrite w a).inbox = s.inbox := rfl
@[simp] theorem State.regWrite_tick (s : State) (w : Write) (a : Answer) : (s.regWrite w a).tick = s.tick := rfl

/-! ### `endEdge` -/
@[simp] theorem State.endEdge_phase (s : State) : s.endEdge.phase = s.phase := rfl
@[simp] theorem State.endEdge_cmdr (s : State) : s.endEdge.cmdr = s.cmdr := rfl
@[simp] theorem State.endEdge_widx (s : State) : s.endEdge.widx = s.widx := rfl
@[simp] theorem State.endEdge_rsp (s : State) : s.endEdge.rsp = s.rsp := rfl
@[simp] theorem State.endEdge_reg (s : State) : s.endEdge.reg = s.reg := rfl
@[simp] theorem State.endEdge_wlog (s : State) : s.endEdge.wlog = s.wlog := rfl
@[simp] theorem State.endEdge_cfg (s : State) : s.endEdge.cfg = s.cfg := rfl
@[simp] theorem State.endEdge_withdrawn (s : State) : s.endEdge.withdrawn = s.withdrawn := rfl
@[simp] theorem State.endEdge_inbox (s : State) : s.endEdge.inbox = s.inbox.tail := rfl
@[simp] theorem State.endEdge_tick (s : State) : s.endEdge.tick = s.tick + 1 := rfl

/-! ### `resetEdge` -/
@[simp] theorem State.resetEdge_phase (s : State) : s.resetEdge.phase = .idle := rfl
@[simp] theorem State.resetEdge_widx (s : State) : s.resetEdge.widx = 0#3 := rfl
@[simp] theorem State.resetEdge_reg (s : State) :
    s.resetEdge.reg = s.reg.withdraw s.offeredWrite (Config.withdrawnWriteLands s.tick) := rfl
@[simp] theorem State.resetEdge_wlog (s : State) : s.resetEdge.wlog = s.wlog := rfl
@[simp] theorem State.resetEdge_cfg (s : State) : s.resetEdge.cfg = s.cfg := rfl
@[simp] theorem State.resetEdge_withdrawn (s : State) :
    s.resetEdge.withdrawn = s.withdrawn ++ (s.offeredWrite.map fun w => ⟨w, s.wlog.length⟩).toList := rfl
@[simp] theorem State.resetEdge_inbox (s : State) : s.resetEdge.inbox = s.inbox := rfl
@[simp] theorem State.resetEdge_tick (s : State) : s.resetEdge.tick = s.tick := rfl

/-! ### the sequencer's updates: what none of them touches -/

theorem State.accept_empty {s : State} {c : CmdWord} {p : Plan} (h : p.writes = []) :
    s.accept c p = (s.latch c).respond p.code p.ovf := by simp [State.accept, h]

theorem State.accept_nonempty {s : State} {c : CmdWord} {p : Plan} (h : p.writes ≠ []) :
    s.accept c p = { s.latch c with phase := .busy } := by simp [State.accept, h]

@[simp] theorem State.accept_cmdr (s : State) (c : CmdWord) (p : Plan) : (s.accept c p).cmdr = c := by
  unfold State.accept; split <;> rfl
@[simp] theorem State.accept_widx (s : State) (c : CmdWord) (p : Plan) : (s.accept c p).widx = 0#3 := by
  unfold State.accept; split <;> rfl
@[simp] theorem State.accept_reg (s : State) (c : CmdWord) (p : Plan) : (s.accept c p).reg = s.reg := by
  unfold State.accept; split <;> rfl
@[simp] theorem State.accept_wlog (s : State) (c : CmdWord) (p : Plan) : (s.accept c p).wlog = s.wlog := by
  unfold State.accept; split <;> rfl
@[simp] theorem State.accept_cfg (s : State) (c : CmdWord) (p : Plan) : (s.accept c p).cfg = s.cfg := by
  unfold State.accept; split <;> rfl
@[simp] theorem State.accept_withdrawn (s : State) (c : CmdWord) (p : Plan) : (s.accept c p).withdrawn = s.withdrawn := by
  unfold State.accept; split <;> rfl
@[simp] theorem State.accept_inbox (s : State) (c : CmdWord) (p : Plan) : (s.accept c p).inbox = s.inbox := by
  unfold State.accept; split <;> rfl
@[simp] theorem State.accept_tick (s : State) (c : CmdWord) (p : Plan) : (s.accept c p).tick = s.tick := by
  unfold State.accept; split <;> rfl

@[simp] theorem State.bump_widx (s : State) : s.bump.widx = s.widx + 1#3 := rfl
@[simp] theorem State.bump_phase (s : State) : s.bump.phase = s.phase := rfl
@[simp] theorem State.bump_cmdr (s : State) : s.bump.cmdr = s.cmdr := rfl
@[simp] theorem State.bump_rsp (s : State) : s.bump.rsp = s.rsp := rfl
@[simp] theorem State.bump_reg (s : State) : s.bump.reg = s.reg := rfl
@[simp] theorem State.bump_wlog (s : State) : s.bump.wlog = s.wlog := rfl
@[simp] theorem State.bump_cfg (s : State) : s.bump.cfg = s.cfg := rfl
@[simp] theorem State.bump_withdrawn (s : State) : s.bump.withdrawn = s.withdrawn := rfl
@[simp] theorem State.bump_inbox (s : State) : s.bump.inbox = s.inbox := rfl
@[simp] theorem State.bump_tick (s : State) : s.bump.tick = s.tick := rfl

theorem State.advance_last {s : State} {p : Plan} (h : s.widx.toNat + 1 = p.writes.length) :
    s.advance p = s.bump.respond p.code p.ovf := by simp [State.advance, h]

theorem State.advance_more {s : State} {p : Plan} (h : s.widx.toNat + 1 ≠ p.writes.length) :
    s.advance p = s.bump := by simp [State.advance, h]

@[simp] theorem State.advance_cmdr (s : State) (p : Plan) : (s.advance p).cmdr = s.cmdr := by
  unfold State.advance; split <;> rfl
@[simp] theorem State.advance_widx (s : State) (p : Plan) : (s.advance p).widx = s.widx + 1#3 := by
  unfold State.advance; split <;> rfl
@[simp] theorem State.advance_reg (s : State) (p : Plan) : (s.advance p).reg = s.reg := by
  unfold State.advance; split <;> rfl
@[simp] theorem State.advance_wlog (s : State) (p : Plan) : (s.advance p).wlog = s.wlog := by
  unfold State.advance; split <;> rfl
@[simp] theorem State.advance_cfg (s : State) (p : Plan) : (s.advance p).cfg = s.cfg := by
  unfold State.advance; split <;> rfl
@[simp] theorem State.advance_withdrawn (s : State) (p : Plan) : (s.advance p).withdrawn = s.withdrawn := by
  unfold State.advance; split <;> rfl
@[simp] theorem State.advance_inbox (s : State) (p : Plan) : (s.advance p).inbox = s.inbox := by
  unfold State.advance; split <;> rfl
@[simp] theorem State.advance_tick (s : State) (p : Plan) : (s.advance p).tick = s.tick := by
  unfold State.advance; split <;> rfl

@[simp] theorem State.complete_err (s : State) (w : Write) (p : Plan) :
    s.complete w .err p = (s.regWrite w .err).respond .transportError false := rfl
@[simp] theorem State.complete_ack (s : State) (w : Write) (p : Plan) :
    s.complete w .ack p = (s.regWrite w .ack).advance p := rfl
@[simp] theorem State.complete_cmdr (s : State) (w : Write) (a : Answer) (p : Plan) :
    (s.complete w a p).cmdr = s.cmdr := by cases a <;> simp
@[simp] theorem State.complete_reg (s : State) (w : Write) (a : Answer) (p : Plan) :
    (s.complete w a p).reg = s.reg.apply w a := by cases a <;> simp
@[simp] theorem State.complete_wlog (s : State) (w : Write) (a : Answer) (p : Plan) :
    (s.complete w a p).wlog = s.wlog ++ [⟨w, a⟩] := by cases a <;> simp
@[simp] theorem State.complete_cfg (s : State) (w : Write) (a : Answer) (p : Plan) :
    (s.complete w a p).cfg = s.cfg := by cases a <;> simp
@[simp] theorem State.complete_withdrawn (s : State) (w : Write) (a : Answer) (p : Plan) :
    (s.complete w a p).withdrawn = s.withdrawn := by cases a <;> simp
@[simp] theorem State.complete_inbox (s : State) (w : Write) (a : Answer) (p : Plan) :
    (s.complete w a p).inbox = s.inbox := by cases a <;> simp
@[simp] theorem State.complete_tick (s : State) (w : Write) (a : Answer) (p : Plan) :
    (s.complete w a p).tick = s.tick := by cases a <;> simp

end Sys2Proof.Machine
end

