-- ==== Sys2Proof/Laws/Memory.lean ====
section
/-!
SUPPORT. The register image: a read after a write, the canonical form, and that equal images are equal lists.
-/

namespace Sys2Proof.Machine

@[simp] theorem Memory.read_nil (a : Nat) : Memory.read [] a = none := rfl

@[simp] theorem Memory.read_write_same (m : Memory) (a : Nat) (v : Byte) : (m.write a v).read a = some v := by
  induction m with
  | nil => simp [Memory.write, Memory.read]
  | cons c m ih =>
    obtain ⟨b, w⟩ := c
    unfold Memory.write
    split
    · simp [Memory.read]
    · split
      · simp [Memory.read]
      · rename_i h2; simp [Memory.read, h2, ih]

theorem Memory.read_write_other (m : Memory) {a b : Nat} (v : Byte) (h : b ≠ a) :
    (m.write a v).read b = m.read b := by
  induction m with
  | nil => simp [Memory.write, Memory.read, h]
  | cons c m ih =>
    obtain ⟨k, w⟩ := c
    unfold Memory.write
    split
    · simp [Memory.read, h]
    · split
      · subst_vars; simp [Memory.read, h]
      · simp only [Memory.read, ih]

theorem Memory.read_write (m : Memory) (a b : Nat) (v : Byte) :
    (m.write a v).read b = if b = a then some v else m.read b := by
  split
  · subst_vars; simp
  · rename_i h; exact m.read_write_other v h

theorem Memory.wfFrom_cons {lo b : Nat} {v : Byte} {m : Memory} :
    Memory.wfFrom lo ((b, v) :: m) = true ↔ b = lo ∧ lo < 256 ∧ m.wfFrom (lo + 1) = true := by
  simp only [Memory.wfFrom, Bool.and_eq_true, decide_eq_true_eq, and_assoc]
  constructor <;> rintro ⟨rfl, h⟩ <;> exact ⟨rfl, h⟩

theorem Memory.wfFrom_write {lo : Nat} {m : Memory} {a : Nat} {v : Byte} (hm : m.wfFrom lo = true) (hlo : lo ≤ a)
    (ha : a < 256) : (m.write a v).wfFrom lo = true := by
  induction m generalizing lo with
  | nil => simp only [Memory.wfFrom, decide_eq_true_eq] at hm; omega
  | cons c m ih =>
    obtain ⟨b, w⟩ := c
    obtain ⟨rfl, hb, hm⟩ := Memory.wfFrom_cons.mp hm
    unfold Memory.write
    rw [if_neg (by omega)]
    split
    · subst_vars; exact Memory.wfFrom_cons.mpr ⟨rfl, hb, hm⟩
    · exact Memory.wfFrom_cons.mpr ⟨rfl, hb, ih hm (by omega)⟩

/-- A write to a register keeps the canonical form. -/
theorem Memory.wf_write {m : Memory} (hm : m.wf = true) (a : RegAddr) (v : Byte) : (m.write a.toNat v).wf = true :=
  Memory.wfFrom_write hm (Nat.zero_le _) a.isLt

theorem Memory.wf_apply {m : Memory} (hm : m.wf = true) (w : Write) (a : Answer) : (m.apply w a).wf = true := by
  unfold Memory.apply
  split
  · exact Memory.wf_write hm _ _
  · exact hm
  · exact hm

theorem Memory.wf_withdraw {m : Memory} (hm : m.wf = true) (o : Option Write) (b : Bool) :
    (m.withdraw o b).wf = true := by
  unfold Memory.withdraw
  split
  · split
    · exact Memory.wf_apply hm _ _
    · exact hm
  · exact hm

/-- The registers from `lo` up, each at some byte, are in canonical form. -/
theorem Memory.wfFrom_range' (f : Nat → Byte) (n : Nat) {lo : Nat} (h : lo + n = 256) :
    Memory.wfFrom lo ((List.range' lo n).map fun a => (a, f a)) = true := by
  induction n generalizing lo with
  | zero => simpa [Memory.wfFrom] using h
  | succ n ih => exact Memory.wfFrom_cons.mpr ⟨rfl, by omega, ih (by omega)⟩

/-- All 256 registers, each at some byte, are in canonical form. -/
theorem Memory.wf_range (f : Nat → Byte) : Memory.wf ((List.range 256).map fun a => (a, f a)) = true := by
  rw [List.range_eq_range']; exact Memory.wfFrom_range' f 256 rfl

@[simp] theorem State.reset_reg_wf : State.reset.reg.wf = true := Memory.wf_range Config.powerOnByte

theorem Memory.read_wfFrom_lt {m : Memory} {lo a : Nat} (hm : m.wfFrom lo = true) (h : a < lo) : m.read a = none := by
  induction m generalizing lo with
  | nil => rfl
  | cons c m ih =>
    obtain ⟨b, w⟩ := c
    obtain ⟨rfl, -, hm⟩ := Memory.wfFrom_cons.mp hm
    simp only [Memory.read, if_neg (Nat.ne_of_lt h)]
    exact ih hm (by omega)

theorem Memory.read_wfFrom_isSome {m : Memory} {lo a : Nat} (hm : m.wfFrom lo = true) (h : lo ≤ a) :
    (m.read a).isSome = true ↔ a < 256 := by
  induction m generalizing lo with
  | nil =>
    simp only [Memory.wfFrom, decide_eq_true_eq] at hm
    simp only [Memory.read, Option.isSome_none, Bool.false_eq_true, false_iff]; omega
  | cons c m ih =>
    obtain ⟨b, w⟩ := c
    obtain ⟨rfl, hb, hm⟩ := Memory.wfFrom_cons.mp hm
    by_cases hab : a = b
    · simp [Memory.read, hab, hb]
    · simp only [Memory.read, if_neg hab]; exact ih hm (by omega)

/-- Every register of the chip's space holds a byte, and no other address does (10_state.md R26). -/
theorem Memory.read_isSome_iff {m : Memory} (hm : m.wf = true) (a : Nat) : (m.read a).isSome = true ↔ a < 256 :=
  Memory.read_wfFrom_isSome hm (Nat.zero_le a)

theorem Memory.ext_from {lo : Nat} {m m' : Memory} (hm : m.wfFrom lo = true) (hm' : m'.wfFrom lo = true)
    (h : ∀ a, m.read a = m'.read a) : m = m' := by
  induction m generalizing lo m' with
  | nil =>
    cases m' with
    | nil => rfl
    | cons c m' => simpa [Memory.read] using h c.1
  | cons c m ih =>
    obtain ⟨b, w⟩ := c
    cases m' with
    | nil => simpa [Memory.read] using h b
    | cons c' m' =>
      obtain ⟨b', w'⟩ := c'
      obtain ⟨rfl, -, ht⟩ := Memory.wfFrom_cons.mp hm
      obtain ⟨rfl, -, ht'⟩ := Memory.wfFrom_cons.mp hm'
      obtain rfl : w = w' := by simpa [Memory.read] using h b'
      congr 1
      refine ih ht ht' fun a => ?_
      by_cases ha : a = b'
      · rw [Memory.read_wfFrom_lt ht (by omega), Memory.read_wfFrom_lt ht' (by omega)]
      · simpa [Memory.read, ha] using h a

/-- In canonical form, images that read alike are the same list. -/
theorem Memory.ext_of_read {m m' : Memory} (hm : m.wf = true) (hm' : m'.wf = true)
    (h : ∀ a, m.read a = m'.read a) : m = m' := Memory.ext_from hm hm' h

/-! ### The write primitive's effect on a register -/

theorem Memory.apply_chip_ack (m : Memory) (r : RegAddr) (d : Byte) :
    m.apply ⟨.chip, r, d⟩ .ack = m.write r.toNat d := rfl

@[simp] theorem Memory.apply_err (m : Memory) (w : Write) : m.apply w .err = m := by
  unfold Memory.apply; cases w.target <;> rfl

theorem Memory.apply_reset (m : Memory) (w : Write) (a : Answer) (h : w.target = .reset) : m.apply w a = m := by
  simp [Memory.apply, h]

/-- A register that is not the one written reads as before. -/
theorem Memory.read_apply_other (m : Memory) {w : Write} (a : Answer) {b : Nat}
    (h : w.target = .chip → w.reg.toNat ≠ b) : (m.apply w a).read b = m.read b := by
  unfold Memory.apply
  split
  · rename_i ht; exact m.read_write_other _ (Ne.symm (h ht))
  · rfl
  · rfl

theorem Memory.read_apply_same (m : Memory) {w : Write} (h : w.target = .chip) :
    (m.apply w .ack).read w.reg.toNat = some w.data := by
  simp [Memory.apply, h]

/-- A withdrawn write changes at most its own register, which then holds its byte. -/
theorem Memory.read_withdraw (m : Memory) (o : Option Write) (b : Bool) (a : Nat) :
    (m.withdraw o b).read a = m.read a ∨
      ∃ w, o = some w ∧ w.target = .chip ∧ w.reg.toNat = a ∧ (m.withdraw o b).read a = some w.data := by
  cases o with
  | none => exact .inl rfl
  | some w =>
    cases b with
    | false => exact .inl rfl
    | true =>
      by_cases h : w.target = .chip ∧ w.reg.toNat = a
      · refine .inr ⟨w, rfl, h.1, h.2, ?_⟩
        obtain ⟨h1, rfl⟩ := h
        exact m.read_apply_same h1
      · refine .inl (m.read_apply_other _ fun ht hr => h ⟨ht, hr⟩)

end Sys2Proof.Machine
end

