-- ==== Sys2Proof/Laws/Ops.lean ====
section
/-!
SUPPORT. What one edge can do, said once: the sequencer's cases, what exec and step are in terms of it, and the shape
of every plan. Later proofs cite these and unfold neither.
-/

namespace Sys2Proof.Machine

open Host (Outcome)

/-! ### exec is the sequencer on the instruction's plan -/

theorem exec_eq_runSequencer (i : Instr) (s : State) : exec i s = runSequencer (planOf s.cfg i) s := by
  cases i <;> rfl

/-! ### The sequencer, case by case -/

theorem runSequencer_idle_offer {p : Plan} {s : State} (h : s.phase = .idle) (hv : s.pins.cmdValid = true) :
    runSequencer p s = .next (s.accept s.pins.cmd p) := by simp [runSequencer, h, hv]

theorem runSequencer_idle_quiet {p : Plan} {s : State} (h : s.phase = .idle) (hv : s.pins.cmdValid = false) :
    runSequencer p s = .next s := by simp [runSequencer, h, hv]

theorem runSequencer_busy_ready {p : Plan} {s : State} {w : Write} (h : s.phase = .busy)
    (hw : p.writes[s.widx.toNat]? = some w) (hr : s.pins.wrReady = true) :
    runSequencer p s = .next (s.complete w s.pins.answer p) := by simp [runSequencer, h, hw, hr]

theorem runSequencer_busy_wait {p : Plan} {s : State} {w : Write} (h : s.phase = .busy)
    (hw : p.writes[s.widx.toNat]? = some w) (hr : s.pins.wrReady = false) :
    runSequencer p s = .next s := by simp [runSequencer, h, hw, hr]

theorem runSequencer_busy_none {p : Plan} {s : State} (h : s.phase = .busy)
    (hw : p.writes[s.widx.toNat]? = none) : runSequencer p s = .fault .noWriteToOffer := by
  simp [runSequencer, h, hw]

theorem runSequencer_resp_take {p : Plan} {s : State} (h : s.phase = .resp) (hr : s.pins.rspReady = true) :
    runSequencer p s = .next s.deliver := by simp [runSequencer, h, hr]

theorem runSequencer_resp_wait {p : Plan} {s : State} (h : s.phase = .resp) (hr : s.pins.rspReady = false) :
    runSequencer p s = .next s := by simp [runSequencer, h, hr]

/-- Everything one edge of the sequencer can do when it answers a next state. -/
inductive SeqCase (p : Plan) (s : State) : State → Prop where
  /-- Idle and nothing offered -/
  | quiet (h : s.phase = .idle) (hv : s.pins.cmdValid = false) : SeqCase p s s
  /-- Idle and a word offered -/
  | accept (h : s.phase = .idle) (hv : s.pins.cmdValid = true) : SeqCase p s (s.accept s.pins.cmd p)
  /-- Busy and the transport not finished -/
  | wait (w : Write) (h : s.phase = .busy) (hw : p.writes[s.widx.toNat]? = some w) (hr : s.pins.wrReady = false) :
      SeqCase p s s
  /-- Busy and the offered write acknowledged -/
  | ack (w : Write) (h : s.phase = .busy) (hw : p.writes[s.widx.toNat]? = some w) (hr : s.pins.wrReady = true)
      (he : s.pins.wrErr = false) : SeqCase p s ((s.regWrite w .ack).advance p)
  /-- Busy and the offered write failed -/
  | err (w : Write) (h : s.phase = .busy) (hw : p.writes[s.widx.toNat]? = some w) (hr : s.pins.wrReady = true)
      (he : s.pins.wrErr = true) : SeqCase p s ((s.regWrite w .err).respond .transportError false)
  /-- Resp and the response not taken -/
  | hold (h : s.phase = .resp) (hr : s.pins.rspReady = false) : SeqCase p s s
  /-- Resp and the response taken -/
  | deliver (h : s.phase = .resp) (hr : s.pins.rspReady = true) : SeqCase p s s.deliver

theorem runSequencer_next_cases {p : Plan} {s t : State} (h : runSequencer p s = .next t) : SeqCase p s t := by
  match hp : s.phase with
  | .idle =>
    cases hv : s.pins.cmdValid
    · rw [runSequencer_idle_quiet hp hv] at h; cases h; exact .quiet hp hv
    · rw [runSequencer_idle_offer hp hv] at h; cases h; exact .accept hp hv
  | .busy =>
    match hw : p.writes[s.widx.toNat]? with
    | none => rw [runSequencer_busy_none hp hw] at h; cases h
    | some w =>
      cases hr : s.pins.wrReady
      · rw [runSequencer_busy_wait hp hw hr] at h; cases h; exact .wait w hp hw hr
      · rw [runSequencer_busy_ready hp hw hr] at h
        cases he : s.pins.wrErr
        · simp only [Pins.answer, he, Bool.false_eq_true, if_false, State.complete_ack] at h
          cases h; exact .ack w hp hw hr he
        · simp only [Pins.answer, he, if_true, State.complete_err] at h
          cases h; exact .err w hp hw hr he
  | .resp =>
    cases hr : s.pins.rspReady
    · rw [runSequencer_resp_wait hp hr] at h; cases h; exact .hold hp hr
    · rw [runSequencer_resp_take hp hr] at h; cases h; exact .deliver hp hr

/-- The sequencer answers a next state unless it is Busy with nothing to offer. -/
theorem runSequencer_completes {p : Plan} {s : State} (h : s.phase = .busy → s.widx.toNat < p.writes.length) :
    ∃ t, runSequencer p s = .next t := by
  match hp : s.phase with
  | .idle =>
    cases hv : s.pins.cmdValid
    · exact ⟨_, runSequencer_idle_quiet hp hv⟩
    · exact ⟨_, runSequencer_idle_offer hp hv⟩
  | .busy =>
    have hw := List.getElem?_eq_getElem (h hp)
    cases hr : s.pins.wrReady
    · exact ⟨_, runSequencer_busy_wait hp hw hr⟩
    · exact ⟨_, runSequencer_busy_ready hp hw hr⟩
  | .resp =>
    cases hr : s.pins.rspReady
    · exact ⟨_, runSequencer_resp_wait hp hr⟩
    · exact ⟨_, runSequencer_resp_take hp hr⟩

theorem exec_next_cases {i : Instr} {s t : State} (h : exec i s = .next t) : SeqCase (planOf s.cfg i) s t :=
  runSequencer_next_cases (exec_eq_runSequencer i s ▸ h)

/-! ### step -/

@[simp] theorem thenNext_next (f : State → State) (s : State) : thenNext f (.next s) = .next (f s) := rfl

theorem thenNext_next_iff {f : State → State} {o : Outcome State Fault Refusal} {t : State} :
    thenNext f o = .next t ↔ ∃ u, o = .next u ∧ f u = t := by
  cases o <;> simp [thenNext]

theorem step_rst {s : State} (h : s.pins.rst = true) : step s = .next s.resetEdge.endEdge := by simp [step, h]

theorem step_quiet {s : State} (h : s.pins.rst = false) (hc : s.commandInForce = none) :
    step s = .next s.endEdge := by simp [step, h, hc]

theorem step_word {s : State} {w : CmdWord} (h : s.pins.rst = false) (hc : s.commandInForce = some w) :
    step s = thenNext State.endEdge (runSequencer (planOfWord s.cfg w) s) := by
  simp only [step, h, hc, planOfWord, Bool.false_eq_true, if_false]
  cases decode w with
  | ok i => simp only [exec_eq_runSequencer]
  | error e => rfl

theorem commandInForce_idle {s : State} (h : s.phase = .idle) (hv : s.pins.cmdValid = true) :
    s.commandInForce = some s.pins.cmd := by simp [State.commandInForce, h, hv]

theorem commandInForce_quiet {s : State} (h : s.phase = .idle) (hv : s.pins.cmdValid = false) :
    s.commandInForce = none := by simp [State.commandInForce, h, hv]

theorem commandInForce_busy {s : State} (h : s.phase = .busy) : s.commandInForce = some s.cmdr := by
  simp [State.commandInForce, h]

theorem commandInForce_resp {s : State} (h : s.phase = .resp) : s.commandInForce = some s.cmdr := by
  simp [State.commandInForce, h]

/-- Everything one step can do when it answers a next state. -/
inductive StepCase (s : State) : State → Prop where
  /-- a reset edge -/
  | rst (h : s.pins.rst = true) : StepCase s s.resetEdge.endEdge
  /-- Idle and a word offered: it is accepted with the plan of that word -/
  | accept (h : s.pins.rst = false) (hp : s.phase = .idle) (hv : s.pins.cmdValid = true) :
      StepCase s (s.accept s.pins.cmd (planOfWord s.cfg s.pins.cmd)).endEdge
  /-- no transfer on any port -/
  | hold (h : s.pins.rst = false)
      (hq : s.phase = .idle ∧ s.pins.cmdValid = false ∨ s.phase = .busy ∧ s.pins.wrReady = false ∨
        s.phase = .resp ∧ s.pins.rspReady = false) : StepCase s s.endEdge
  /-- the offered write is acknowledged -/
  | ack (w : Write) (h : s.pins.rst = false) (hp : s.phase = .busy)
      (hw : s.plan.writes[s.widx.toNat]? = some w) (hr : s.pins.wrReady = true) (he : s.pins.wrErr = false) :
      StepCase s ((s.regWrite w .ack).advance s.plan).endEdge
  /-- the offered write fails -/
  | err (w : Write) (h : s.pins.rst = false) (hp : s.phase = .busy)
      (hw : s.plan.writes[s.widx.toNat]? = some w) (hr : s.pins.wrReady = true) (he : s.pins.wrErr = true) :
      StepCase s ((s.regWrite w .err).respond .transportError false).endEdge
  /-- the response is delivered -/
  | deliver (h : s.pins.rst = false) (hp : s.phase = .resp) (hr : s.pins.rspReady = true) :
      StepCase s s.deliver.endEdge

theorem commandInForce_none {s : State} (h : s.commandInForce = none) :
    s.phase = .idle ∧ s.pins.cmdValid = false := by
  cases hp : s.phase <;> cases hv : s.pins.cmdValid <;> simp_all [State.commandInForce]

theorem step_next_cases {s t : State} (h : step s = .next t) : StepCase s t := by
  cases hrst : s.pins.rst
  · match hc : s.commandInForce with
    | none => rw [step_quiet hrst hc] at h; cases h; exact .hold hrst (.inl (commandInForce_none hc))
    | some w =>
      rw [step_word hrst hc] at h
      obtain ⟨u, hu, rfl⟩ := thenNext_next_iff.mp h
      cases runSequencer_next_cases hu with
      | quiet hp hv => exact .hold hrst (.inl ⟨hp, hv⟩)
      | accept hp hv =>
        rw [commandInForce_idle hp hv] at hc
        cases hc; exact .accept hrst hp hv
      | wait _ hp _ hr => exact .hold hrst (.inr (.inl ⟨hp, hr⟩))
      | ack x hp hw hr he =>
        rw [commandInForce_busy hp] at hc
        cases hc; exact .ack x hrst hp hw hr he
      | err x hp hw hr he =>
        rw [commandInForce_busy hp] at hc
        cases hc; exact .err x hrst hp hw hr he
      | hold hp hr => exact .hold hrst (.inr (.inr ⟨hp, hr⟩))
      | deliver hp hr => exact .deliver hrst hp hr
  · rw [step_rst hrst] at h; cases h; exact .rst hrst

/-! ### The shape of the plans -/

theorem planOf_motorFwd {cfg : Config} {ch : Nat} (h1 : 1 ≤ ch) (h2 : ch ≤ cfg.nMotor) (raw : Int) :
    planOf cfg (.motorFwd ch raw) =
      ⟨[chipWrite (addrMotor ch) (lowByte (pwmMotor cfg raw)), chipWrite (addrMotor ch + 1) (highMotor (pwmMotor cfg raw)),
        chipWrite (addrMotor ch + 4) 0#8, chipWrite (addrMotor ch + 5) 0#8], .ok, false⟩ := by
  simp [planOf, motorFwdPlan, motorPlan, validMotor, h1, h2]

theorem planOf_motorRev {cfg : Config} {ch : Nat} (h1 : 1 ≤ ch) (h2 : ch ≤ cfg.nMotor) (raw : Int) :
    planOf cfg (.motorRev ch raw) =
      ⟨[chipWrite (addrMotor ch + 4) (lowByte (pwmMotor cfg raw)),
        chipWrite (addrMotor ch + 5) (highMotor (pwmMotor cfg raw)),
        chipWrite (addrMotor ch) 0#8, chipWrite (addrMotor ch + 1) 0#8], .ok, false⟩ := by
  simp [planOf, motorRevPlan, motorPlan, validMotor, h1, h2]

theorem planOf_motorDirOff {cfg : Config} {ch : Nat} (h1 : 1 ≤ ch) (h2 : ch ≤ cfg.nMotor) :
    planOf cfg (.motorDirOff ch) = ⟨zeroWrites (addrMotor ch), .ok, false⟩ := by
  simp [planOf, motorDirOffPlan, motorPlan, validMotor, h1, h2]

theorem planOf_motorBad {cfg : Config} {ch : Nat} (h1 : 1 ≤ ch) (h2 : ch ≤ cfg.nMotor) :
    planOf cfg (.motorBad ch) = ⟨zeroWrites (addrMotor ch), .invalidDirection, false⟩ := by
  simp [planOf, motorBadPlan, motorPlan, validMotor, h1, h2]

theorem planOf_motorOff {cfg : Config} {ch : Nat} (h1 : 1 ≤ ch) (h2 : ch ≤ cfg.nMotor) :
    planOf cfg (.motorOff ch) = ⟨zeroWrites (addrMotor ch), .ok, false⟩ := by
  simp [planOf, motorOffPlan, motorPlan, validMotor, h1, h2]

theorem planOf_servo {cfg : Config} {ch : Nat} (h1 : 1 ≤ ch) (h2 : ch ≤ 8) (raw : Int) :
    planOf cfg (.servo ch raw) =
      ⟨[chipWrite (addrServo ch) (lowByte (pwmServo cfg raw)), chipWrite (addrServo ch + 1) (highServo (pwmServo cfg raw))],
        .ok, servoOvf (pwmServo cfg raw)⟩ := by
  simp [planOf, servoPlan, validServo, Config.nServo, h1, h2]


end Sys2Proof.Machine
end

