-- ==== Sys2Proof/Laws/PerInstr.lean ====
section
/-!
SUPPORT. Facts about every instruction as syntax, one lemma per constructor.
-/

namespace Sys2Proof.Laws

/-- The row of the table an instruction belongs to. -/
def formOf : Instr → Form
  | .init          => .init
  | .motorDirOff _ => .motorDirOff
  | .motorFwd _ _  => .motorFwd
  | .motorRev _ _  => .motorRev
  | .motorBad _    => .motorBad
  | .servo _ _     => .servo
  | .motorOff _    => .motorOff

end Sys2Proof.Laws

namespace Sys2Proof.Laws.ReservedZero

/-- The canonical word has 0 in the reserved bits (30_encoding.md R60). -/
def Statement (i : Instr) : Prop := rsvField (encode i) = 0#4

theorem init : Statement .init := rsvField_packWord _ _ _ _
theorem motorDirOff (ch : Nat) : Statement (.motorDirOff ch) := rsvField_packWord _ _ _ _
theorem motorFwd (ch : Nat) (raw : Int) : Statement (.motorFwd ch raw) := rsvField_packWord _ _ _ _
theorem motorRev (ch : Nat) (raw : Int) : Statement (.motorRev ch raw) := rsvField_packWord _ _ _ _
theorem motorBad (ch : Nat) : Statement (.motorBad ch) := rsvField_packWord _ _ _ _
theorem servo (ch : Nat) (raw : Int) : Statement (.servo ch raw) := rsvField_packWord _ _ _ _
theorem motorOff (ch : Nat) : Statement (.motorOff ch) := rsvField_packWord _ _ _ _

end Sys2Proof.Laws.ReservedZero

namespace Sys2Proof.Laws.SelectsItsForm

/-- The canonical word selects the instruction's own row of the table (30_encoding.md R64). -/
def Statement (i : Instr) : Prop := selectForm (encode i) = some (formOf i)

theorem init : Statement .init := rfl
theorem motorDirOff (ch : Nat) : Statement (.motorDirOff ch) := (selectForm_packWord _ _ _ _).trans rfl
theorem motorFwd (ch : Nat) (raw : Int) : Statement (.motorFwd ch raw) :=
  (selectForm_packWord _ _ _ _).trans rfl
theorem motorRev (ch : Nat) (raw : Int) : Statement (.motorRev ch raw) :=
  (selectForm_packWord _ _ _ _).trans rfl
theorem motorBad (ch : Nat) : Statement (.motorBad ch) := (selectForm_packWord _ _ _ _).trans rfl
theorem servo (ch : Nat) (raw : Int) : Statement (.servo ch raw) := (selectForm_packWord _ _ _ _).trans rfl
theorem motorOff (ch : Nat) : Statement (.motorOff ch) := (selectForm_packWord _ _ _ _).trans rfl

end Sys2Proof.Laws.SelectsItsForm
end

