-- ==== Sys2Proof/Laws/Plans.lean ====
section
/-!
SUPPORT. The plans: which registers they name, how long they are, and which are empty.
-/

namespace Sys2Proof.Machine

theorem validMotor_iff {cfg : Config} {ch : Nat} : validMotor cfg ch = true ↔ 1 ≤ ch ∧ ch ≤ cfg.nMotor := by
  simp [validMotor]

theorem validServo_iff {ch : Nat} : validServo ch = true ↔ 1 ≤ ch ∧ ch ≤ 8 := by
  simp only [validServo, Bool.and_eq_true, decide_eq_true_eq]
  rfl

theorem motorPlan_invalid {cfg : Config} {ch : Nat} (h : ¬ (1 ≤ ch ∧ ch ≤ cfg.nMotor)) (code : RespCode)
    (writes : RegAddr → List Write) : motorPlan cfg ch code writes = ⟨[], .invalidChannel, false⟩ :=
  if_neg (mt validMotor_iff.mp h)

/-- A command whose channel is not valid: no write, InvalidChannel (60_exceptions.md R122, R123). -/
theorem planOf_invalid {cfg : Config} {i : Instr} (h : ¬ channelValid cfg i) :
    planOf cfg i = ⟨[], .invalidChannel, false⟩ := by
  cases i with
  | init => exact absurd trivial h
  | servo ch raw => exact if_neg (mt validServo_iff.mp h)
  | motorDirOff ch => unfold planOf motorDirOffPlan; exact motorPlan_invalid h _ _
  | motorFwd ch raw => unfold planOf motorFwdPlan; exact motorPlan_invalid h _ _
  | motorRev ch raw => unfold planOf motorRevPlan; exact motorPlan_invalid h _ _
  | motorBad ch => unfold planOf motorBadPlan; exact motorPlan_invalid h _ _
  | motorOff ch => unfold planOf motorOffPlan; exact motorPlan_invalid h _ _

/-- The write counts of valid commands (41_commands.md R109). -/
theorem planOf_length {cfg : Config} {i : Instr} (h : channelValid cfg i) :
    (planOf cfg i).writes.length = match i with | .init => 7 | .servo _ _ => 2 | _ => 4 := by
  cases i with
  | init => rfl
  | motorDirOff ch => rw [planOf_motorDirOff h.1 h.2]; rfl
  | motorFwd ch raw => rw [planOf_motorFwd h.1 h.2]; rfl
  | motorRev ch raw => rw [planOf_motorRev h.1 h.2]; rfl
  | motorBad ch => rw [planOf_motorBad h.1 h.2]; rfl
  | servo ch raw => rw [planOf_servo h.1 h.2]; rfl
  | motorOff ch => rw [planOf_motorOff h.1 h.2]; rfl

theorem planOf_length_le (cfg : Config) (i : Instr) : (planOf cfg i).writes.length ≤ 7 := by
  by_cases h : channelValid cfg i
  · rw [planOf_length h]; cases i <;> simp
  · rw [planOf_invalid h]; simp

theorem planOfWord_length_le (cfg : Config) (w : CmdWord) : (planOfWord cfg w).writes.length ≤ 7 := by
  unfold planOfWord
  split
  · exact planOf_length_le _ _
  · simp [illegalPlan]

theorem planOf_writes_ne_nil {cfg : Config} {i : Instr} (h : channelValid cfg i) : (planOf cfg i).writes ≠ [] := by
  intro h0
  have := planOf_length h
  rw [h0] at this
  cases i <;> simp at this

@[simp] theorem planOfWord_ok {cfg : Config} {w : CmdWord} {i : Instr} (h : decode w = .ok i) :
    planOfWord cfg w = planOf cfg i := by simp [planOfWord, h]

@[simp] theorem planOfWord_error {cfg : Config} {w : CmdWord} {e : Reject} (h : decode w = .error e) :
    planOfWord cfg w = illegalPlan := by simp [planOfWord, h]

/-- A motor's base address as a number, for the channels 00_scope.md R8 allows: no wrap (40_datapath.md R90). -/
theorem toNat_addrMotor {ch : Nat} (h1 : 1 ≤ ch) (h2 : ch ≤ 27) : (addrMotor ch).toNat = 0x28 + 8 * (ch - 1) := by
  simp only [addrMotor, Config.motorBase, Config.stride, BitVec.toNat_ofNat]
  omega

/-- A servo's base address as a number (R89). -/
theorem toNat_addrServo {ch : Nat} (h1 : 1 ≤ ch) (h2 : ch ≤ 8) : (addrServo ch).toNat = 0x08 + 4 * (ch - 1) := by
  simp only [addrServo, Config.servoBase, Config.stride, BitVec.toNat_ofNat]
  omega

theorem Plan.acked_succ {p : Plan} {k : Nat} {w : Write} (h : p.writes[k]? = some w) :
    p.acked (k + 1) = p.acked k ++ [⟨w, .ack⟩] := by
  simp [Plan.acked, List.take_add_one, h]

end Sys2Proof.Machine
end

