-- ==== Sys2Proof/Tests/Slice0.lean ====
section
/-!
SUPPORT. The model's own tests. Expected results are the vectors of 95_test_vectors.md, or written out by hand from the
rule a comment names. The witness theorems show, for each obligation with hypotheses, states and operands that meet them.
-/

namespace Sys2Proof.Tests

open Sys2Proof Sys2Proof.Machine

/-! ### Well-formedness: one ill-formed term for each check -/

theorem test_wf_init : Instr.wellFormed .init = true := by decide
theorem test_wf_off_channel : Instr.wellFormed (.motorDirOff 256) = false := by decide
theorem test_wf_fwd_channel : Instr.wellFormed (.motorFwd 256 0) = false := by decide
theorem test_wf_fwd_raw_high : Instr.wellFormed (.motorFwd 1 32768) = false := by decide
theorem test_wf_fwd_raw_low : Instr.wellFormed (.motorFwd 1 (-32769)) = false := by decide
theorem test_wf_rev_channel : Instr.wellFormed (.motorRev 256 0) = false := by decide
theorem test_wf_rev_raw : Instr.wellFormed (.motorRev 1 32768) = false := by decide
theorem test_wf_bad_channel : Instr.wellFormed (.motorBad 256) = false := by decide
theorem test_wf_servo_channel : Instr.wellFormed (.servo 256 0) = false := by decide
theorem test_wf_servo_raw : Instr.wellFormed (.servo 1 (-32769)) = false := by decide
theorem test_wf_motoroff_channel : Instr.wellFormed (.motorOff 256) = false := by decide

/-- A configuration with every INIT parameter a concrete number; the numbers have no source, they only stand for the
open parameters of 00_scope.md R8. -/
def testCfg (nMotor frac : Nat) : Config where
  nMotor      := nMotor
  frac        := frac
  swrstReg    := 0xA0#8
  swrstVal    := 0xA1#8
  prescaleReg := 0xF9#8
  allOffReg   := #v[0xFA#8, 0xFB#8, 0xFC#8, 0xFD#8]
  allOffVal   := #v[0xB0#8, 0xB1#8, 0xB2#8, 0xB3#8]
  modeReg     := 0xF8#8
  wakeVal     := 0x01#8
  sleepBit    := 4

theorem test_cfg_valid : (testCfg 27 8).valid = true := by decide
theorem test_cfg_valid_two : (testCfg 2 0).valid = true := by decide
theorem test_cfg_no_motor : (testCfg 0 0).valid = false := by decide
theorem test_cfg_too_many_motors : (testCfg 28 0).valid = false := by decide
theorem test_cfg_frac : (testCfg 2 9).valid = false := by decide
theorem test_cfg_sleep_bit : Config.valid { testCfg 2 0 with wakeVal := 0x11#8 } = false := by decide

/-! ### Decoding: words written out bit by bit from 30_encoding.md R60 to R64 -/

/-- INIT: op 00, dir 10 ignored, every other bit of the ignored fields 1. -/
theorem test_decode_init : decode (0b00#2 ++ 0b10#2 ++ 0b0000#4 ++ 0x7F#8 ++ 0xFFFF#16) = .ok .init := by decide
/-- MOTOR.OFF: op 01, dir 00. -/
theorem test_decode_off : decode (0b01#2 ++ 0b00#2 ++ 0b0000#4 ++ 0x01#8 ++ 0x0037#16) = .ok (.motorDirOff 1) := by decide
/-- MOTOR.FWD: op 01, dir 01, val -50. -/
theorem test_decode_fwd : decode (0b01#2 ++ 0b01#2 ++ 0b0000#4 ++ 0x01#8 ++ 0xFFCE#16) = .ok (.motorFwd 1 (-50)) := by decide
/-- MOTOR.REV: op 01, dir 10, val 33. -/
theorem test_decode_rev : decode (0b01#2 ++ 0b10#2 ++ 0b0000#4 ++ 0x02#8 ++ 0x0021#16) = .ok (.motorRev 2 33) := by decide
/-- MOTOR.BAD: op 01, dir 11. -/
theorem test_decode_bad : decode (0b01#2 ++ 0b11#2 ++ 0b0000#4 ++ 0x02#8 ++ 0x0000#16) = .ok (.motorBad 2) := by decide
/-- SERVO: op 10, dir 11 ignored, val 90. -/
theorem test_decode_servo : decode (0b10#2 ++ 0b11#2 ++ 0b0000#4 ++ 0x01#8 ++ 0x005A#16) = .ok (.servo 1 90) := by decide
/-- MOTOROFF: op 11, dir 11 and val ignored. -/
theorem test_decode_motoroff : decode (0b11#2 ++ 0b11#2 ++ 0b0000#4 ++ 0x02#8 ++ 0x1234#16) = .ok (.motorOff 2) := by decide
/-- Section 2.6: illegal words. -/
theorem test_decode_illegal : decode 0x8101005A#32 = .error (.reservedBitsSet 1#4) ∧
    decode 0x08000000#32 = .error (.reservedBitsSet 8#4) ∧ decode 0xFFFFFFFF#32 = .error (.reservedBitsSet 15#4) := by decide
/-- R72: the canonical words. -/
theorem test_encode_canonical : encode (.motorFwd 1 100) = 0x50010064#32 ∧ encode (.motorRev 1 50) = 0x60010032#32 ∧
    encode (.servo 8 (-1)) = 0x8008FFFF#32 ∧ encode (.motorOff 1) = 0xC0010000#32 ∧ encode .init = 0#32 := by decide
/-- The table numbers a command as one 32-bit word. -/
theorem test_decode_table_word : decodeTableWord 32 0x8008005A = some (.servo 8 90) ∧
    decodeTableWord 32 0x8108005A = none := by decide

/-! ### Datapath: sections 2.1 to 2.4 and 2.8 -/

/-- The two speeds at which ties-to-even would differ, a low byte of 0, and the clamps. -/
theorem test_pwm_motor : pwmMotor (testCfg 2 0) 30 = 1229#12 ∧ pwmMotor (testCfg 2 0) 70 = 2867#12 ∧
    pwmMotor (testCfg 2 0) 25 = 1024#12 ∧ pwmMotor (testCfg 2 0) (-32768) = 0#12 ∧
    pwmMotor (testCfg 2 0) 101 = 4095#12 := by decide
/-- The largest faithful angle, the overflow, and the clamps. -/
theorem test_pwm_servo : pwmServo (testCfg 2 0) 179 = 509#12 ∧ pwmServo (testCfg 2 0) 180 = 512#12 ∧
    pwmServo (testCfg 2 0) 67 = 254#12 ∧ pwmServo (testCfg 2 0) (-1) = 102#12 ∧
    pwmServo (testCfg 2 0) 32767 = 512#12 := by decide
/-- Section 2.8, `FRAC` = 4, and the `FRAC` = 5 remark below it. -/
theorem test_pwm_fraction : pwmMotor (testCfg 2 4) 200 = 512#12 ∧ pwmMotor (testCfg 2 4) 1599 = 4092#12 ∧
    pwmServo (testCfg 2 4) 1448 = 308#12 ∧ pwmServo (testCfg 2 4) 2879 = 511#12 ∧
    pwmServo (testCfg 2 5) 5759 = 512#12 := by decide
/-- Section 2.4: the bases at both ends of the map. -/
theorem test_addresses : addrServo 1 = 0x08#8 ∧ addrServo 8 = 0x24#8 ∧ addrMotor 1 = 0x28#8 ∧ addrMotor 2 = 0x30#8 ∧
    addrMotor 27 = 0xF8#8 := by decide

/-! ### States for the step tests and the witnesses -/

/-- A register image with these bytes, and 0xEE in every other register. -/
def image (bytes : List (RegAddr × Byte)) : Memory :=
  bytes.foldl (fun m c => m.write c.1.toNat c.2) ((List.range 256).map fun a => (a, 0xEE#8))

theorem foldl_write_wf (bytes : List (RegAddr × Byte)) (m : Memory) (hm : m.wf = true) :
    Memory.wf (bytes.foldl (fun m c => m.write c.1.toNat c.2) m) = true := by
  induction bytes generalizing m with
  | nil => exact hm
  | cons c bytes ih => exact ih _ (Memory.wf_write hm c.1 c.2)

theorem image_wf (bytes : List (RegAddr × Byte)) : (image bytes).wf = true :=
  foldl_write_wf bytes _ (Memory.wf_range fun _ => 0xEE#8)

/-- Idle, with these pins at the coming edges. -/
def idleAt (cfg : Config) (pins : List Pins) : State :=
  ⟨.idle, 0#32, 0#3, 0#4, image [], [], [], cfg, pins, 0⟩

/-- Busy with a command at a write index, with these pins at the coming edges. -/
def busyAt (cfg : Config) (cmdr : CmdWord) (widx : BitVec 3) (pins : List Pins) : State :=
  ⟨.busy, cmdr, widx, 0#4, image [], [], [], cfg, pins, 0⟩

/-- Resp with a command and a response value, with these pins at the coming edges. -/
def respAt (cfg : Config) (cmdr : CmdWord) (widx : BitVec 3) (rsp : BitVec 4) (pins : List Pins) : State :=
  ⟨.resp, cmdr, widx, rsp, image [], [], [], cfg, pins, 0⟩

/-- An edge with `rst` = 1. -/
def rstPins : Pins := ⟨true, true, 0#32, true, false, true⟩

/-- An edge at which nothing is offered, finished or taken. -/
def quietPins : Pins := ⟨false, false, 0#32, false, false, false⟩

/-- The next state, if there is one. -/
def nextOf : Host.Outcome State Fault Refusal → Option State
  | .next s    => some s
  | .fault _   => none
  | .refused _ => none

/-- The phase, the write index and the response register after a step. -/
def stepControl (s : State) : Option (Phase × BitVec 3 × BitVec 4) := (nextOf (step s)).map fun t => (t.phase, t.widx, t.rsp)

/-- What the register at an address holds after a step. -/
def stepReg (s : State) (a : Nat) : Option Byte := (nextOf (step s)).bind (·.reg.read a)

/-- The register image after a step. -/
def stepImage (s : State) : Option Memory := (nextOf (step s)).map (·.reg)

/-- The log after a step. -/
def stepLog (s : State) : Option (List LogEntry) := (nextOf (step s)).map (·.wlog)

/-! ### One step per test -/

/-- INIT write 1 puts 0x78 into the prescale register (R101). -/
theorem test_init_prescale : stepReg (busyAt (testCfg 2 0) 0#32 1#3 [Pins.ack]) 0xF9 = some 0x78#8 := by decide +kernel
/-- INIT write 0 goes to RESET and changes no register (R101, R44). -/
theorem test_init_reset_target : stepImage (busyAt (testCfg 2 0) 0#32 0#3 [Pins.ack]) = some (image []) ∧
    stepLog (busyAt (testCfg 2 0) 0#32 0#3 [Pins.ack]) = some [⟨⟨.reset, 0xA0#8, 0xA1#8⟩, .ack⟩] := by decide +kernel
/-- MOTOR 1, fwd, 30: the high byte of 1229 to 0x29 (section 2.1). -/
theorem test_fwd_high_byte : stepReg (busyAt (testCfg 2 0) 0x5001001E#32 1#3 [Pins.ack]) 0x29 = some 0x04#8 := by decide +kernel
/-- MOTOR 3, fwd with `N_MOTOR` = 2: InvalidChannel at acceptance (program P3). -/
theorem test_fwd_invalid : stepControl (idleAt (testCfg 2 0) [Pins.offer 0x5003000A#32]) = some (.resp, 0#3, 2#4) := by decide
/-- MOTOR 1, rev, 50: write 1 is the high byte of 2048 to 0x2D (program P2). -/
theorem test_rev_high_byte : stepReg (busyAt (testCfg 2 0) 0x60010032#32 1#3 [Pins.ack]) 0x2D = some 0x08#8 := by decide +kernel
/-- MOTOR 1, rev, 100: write 2 answered `err` (section 2.7). -/
theorem test_rev_error : stepControl (busyAt (testCfg 2 0) 0x60010064#32 2#3 [Pins.nak]) = some (.resp, 2#3, 3#4) ∧
    stepImage (busyAt (testCfg 2 0) 0x60010064#32 2#3 [Pins.nak]) = some (image []) := by decide +kernel
/-- MOTOR 1, off: the last write is 0x2D, then OK (R104). -/
theorem test_off_last : stepControl (busyAt (testCfg 2 0) 0x40010037#32 3#3 [Pins.ack]) = some (.resp, 4#3, 0#4) ∧
    stepReg (busyAt (testCfg 2 0) 0x40010037#32 3#3 [Pins.ack]) 0x2D = some 0x00#8 := by decide +kernel
/-- MOTOR 2, bad: InvalidDirection after the last write (program P3). -/
theorem test_bad_last : stepControl (busyAt (testCfg 2 0) 0x70020000#32 3#3 [Pins.ack]) = some (.resp, 4#3, 1#4) := by decide
/-- MOTOR 2, bad with its last write failed: TransportError (section 2.7). -/
theorem test_bad_error : stepControl (busyAt (testCfg 2 0) 0x70020000#32 3#3 [Pins.nak]) = some (.resp, 3#3, 3#4) := by decide
/-- SERVO 8, 90: low byte 0x33 to 0x24 (program P1). -/
theorem test_servo_low : stepReg (busyAt (testCfg 2 0) 0x8008005A#32 0#3 [Pins.ack]) 0x24 = some 0x33#8 := by decide +kernel
/-- SERVO 3, 180: high byte 0 and `ovf` (program P1). -/
theorem test_servo_overflow : stepControl (busyAt (testCfg 2 0) 0x800300B4#32 1#3 [Pins.ack]) = some (.resp, 2#3, 8#4) ∧
    stepReg (busyAt (testCfg 2 0) 0x800300B4#32 1#3 [Pins.ack]) 0x11 = some 0x00#8 := by decide +kernel
/-- MOTOROFF 2: the third offset is 4 (R106). -/
theorem test_motoroff_third : stepReg (busyAt (testCfg 2 0) 0xC0020000#32 2#3 [Pins.ack]) 0x34 = some 0x00#8 := by decide +kernel
/-- MOTOROFF 255 (section 2.6). -/
theorem test_motoroff_invalid : stepControl (idleAt (testCfg 2 0) [Pins.offer 0xF0FFFFFF#32]) = some (.resp, 0#3, 2#4) := by
  decide
/-- An illegal word wins over the invalid channel (section 2.6). -/
theorem test_illegal : stepControl (idleAt (testCfg 2 0) [Pins.offer 0x7F090000#32]) = some (.resp, 0#3, 4#4) := by decide
/-- The next step after a placed word accepts it (log 13). -/
theorem test_with_fetch_word : ((nextOf (step (State.reset.withFetchWord 32 0x50010064))).map fun t => (t.phase, t.cmdr)) =
    some (.busy, 0x50010064#32) := by decide
/-- The host's machine is this one. -/
theorem test_core : (nextOf (Sys2Proof.core.step (idleAt (testCfg 2 0) [quietPins]))).isSome = true := by decide
/-- `rst` at write 0 of INIT withdraws the RESET write: no entry in `WLOG`, one in `withdrawn` (R141). -/
theorem test_reset_withdraws : ((nextOf (step (busyAt (testCfg 2 0) 0#32 0#3 [rstPins]))).map fun t =>
    (t.phase, t.wlog, t.withdrawn)) = some (.idle, [], [⟨⟨.reset, 0xA0#8, 0xA1#8⟩, 0⟩]) := by decide
/-- A write replaces a byte in place (R26). -/
theorem test_memory_write : Memory.write [(0, 1#8), (1, 2#8), (2, 3#8)] 1 9#8 = [(0, 1#8), (1, 9#8), (2, 3#8)] := by decide

/-! ### Witnesses: encoding and datapath -/

theorem witness_DecodeEncodeRoundTrip : Instr.wellFormed .init = true ∧ Instr.wellFormed (.motorDirOff 255) = true ∧
    Instr.wellFormed (.motorFwd 255 (-32768)) = true ∧ Instr.wellFormed (.motorRev 0 32767) = true ∧
    Instr.wellFormed (.motorBad 0) = true ∧ Instr.wellFormed (.servo 255 (-32768)) = true ∧
    Instr.wellFormed (.motorOff 255) = true := by decide
theorem witness_EncodeDecodeIsCanonicalWord : decode 0xB001005A#32 = .ok (.servo 1 90) := by decide
theorem witness_FormsDisjointAndCoverReservedZero :
    (∃ r ∈ formTable, 0xB001005A#32 &&& r.mask = r.bits) ∧ (0xF0FFFFFF#32).toNat / 2 ^ 24 % 16 = 0 := by decide
theorem witness_DecoderTotalAndRejectsOnlyReservedBits : (0xF0FFFFFF#32).toNat / 2 ^ 24 % 16 = 0 ∧
    (0x01000000#32).toNat / 2 ^ 24 % 16 ≠ 0 ∧ (0xFFFFFFFF#32).toNat / 2 ^ 24 % 16 ≠ 0 := by decide
theorem witness_IgnoredFieldsDoNotMatter : decode 0xB001005A#32 = .ok (.servo 1 90) ∧
    0x8001005A#32 &&& examinedBits (.servo 1 90) = 0xB001005A#32 &&& examinedBits (.servo 1 90) := by decide
theorem witness_OperandsAreChanAndSignedVal : (0x50FF7FFF#32).toNat / 2 ^ 24 = 0x50 ∧
    (0x60008000#32).toNat / 2 ^ 24 = 0x60 ∧ (0x40FFFFFF#32).toNat / 2 ^ 24 = 0x40 ∧
    (0x70000000#32).toNat / 2 ^ 24 = 0x70 ∧
    ((0x30FFFFFF#32).toNat / 2 ^ 24 % 64 % 16 = 0 ∧ (0x30FFFFFF#32).toNat / 2 ^ 30 = 0) ∧
    ((0xB0FF8000#32).toNat / 2 ^ 24 % 64 % 16 = 0 ∧ (0xB0FF8000#32).toNat / 2 ^ 30 = 2) ∧
    ((0xF0FFFFFF#32).toNat / 2 ^ 24 % 64 % 16 = 0 ∧ (0xF0FFFFFF#32).toNat / 2 ^ 30 = 3) := by decide
theorem witness_MotorPwmRangeAndShape : (99 : Int) ≤ 100 ∧ (testCfg 2 0).frac = 0 := by decide
theorem witness_ServoPwmRangeAndShape : (179 : Int) ≤ 180 ∧ (testCfg 2 4).frac ≤ 4 := by decide
theorem witness_ServoSplitDropsBitNine : (511#12).toNat ≤ 511 ∧ (512#12).toNat = 512 := by decide
theorem witness_ServoOverflowWritesZero : (1 ≤ 1 ∧ 1 ≤ 8) ∧ (1 ≤ 8 ∧ 8 ≤ 8) ∧
    (planOf (testCfg 2 0) (.servo 8 180)).ovf = true := by decide
theorem witness_ServoOverflowWritesZero_other : ∀ c r, Instr.motorFwd 1 100 ≠ .servo c r := by simp

/-- Two motors, two servos, and a servo beside a motor. -/
theorem witness_ChannelsShareNoRegister : (testCfg 27 0).valid = true ∧
    channelValid (testCfg 27 0) (.motorFwd 27 1) ∧ channelValid (testCfg 27 0) (.motorRev 26 1) ∧
    channelValid (testCfg 27 0) (.servo 8 1) ∧ channelValid (testCfg 27 0) (.servo 1 1) ∧
    (∀ c r c' r', Instr.servo 8 1 = .servo c r → Instr.servo 1 1 = .servo c' r' → c ≠ c') ∧
    (∀ m, motorOf (.motorFwd 27 1) = some m → motorOf (.motorRev 26 1) ≠ some m) ∧
    Instr.motorFwd 27 1 ≠ .init ∧ Instr.motorRev 26 1 ≠ .init ∧ Instr.servo 8 1 ≠ .init ∧ Instr.servo 1 1 ≠ .init := by
  refine ⟨by decide, ?_, ?_, ?_, ?_, ?_, ?_, ?_⟩
  · exact ⟨by decide, by decide⟩
  · exact ⟨by decide, by decide⟩
  · exact ⟨by decide, by decide⟩
  · exact ⟨by decide, by decide⟩
  · intro c r c' r' h h'; simp at h h'; omega
  · intro m h; simp [motorOf] at h ⊢; omega
  · decide
theorem witness_CommandsStayInsideTheirBlocks : (testCfg 27 0).valid = true ∧ Instr.motorRev 27 100 ≠ .init ∧
    toChip 0xFD#8 15 ∈ (planOf (testCfg 27 0) (.motorRev 27 100)).writes := by decide

/-! ### Witnesses: the commands -/

/-- The premises of the three clauses of `SendsInOrder`: acceptance, `ack` of write `k`, `err` of write `k`. -/
def SendsPremises (writes : List Write) (k : BitVec 3) (accepting acking failing : State) : Prop :=
  (accepting.phase = .idle ∧ accepting.pins.cmdValid = true) ∧
  (acking.phase = .busy ∧ acking.widx = k ∧ writes[acking.widx.toNat]?.isSome = true ∧ acking.pins.wrReady = true ∧
    acking.pins.wrErr = false) ∧
  (failing.phase = .busy ∧ failing.widx = k ∧ writes[failing.widx.toNat]?.isSome = true ∧ failing.pins.wrReady = true ∧
    failing.pins.wrErr = true)

/-- The premises met by the states above, at the first and at the last write of a list. -/
theorem sendsPremises (writes : List Write) (w : CmdWord) (k : BitVec 3) (h : writes[k.toNat]?.isSome = true) :
    SendsPremises writes k (idleAt (testCfg 2 0) [Pins.offer w]) (busyAt (testCfg 2 0) w k [Pins.ack])
      (busyAt (testCfg 2 0) w k [Pins.nak]) :=
  ⟨⟨rfl, rfl⟩, ⟨rfl, rfl, h, rfl, rfl⟩, ⟨rfl, rfl, h, rfl, rfl⟩⟩

theorem witness_InitSendsBringUpSequence :
    SendsPremises (initPlan (testCfg 2 0)).writes 0#3 (idleAt (testCfg 2 0) [Pins.offer 0#32])
      (busyAt (testCfg 2 0) 0#32 0#3 [Pins.ack]) (busyAt (testCfg 2 0) 0#32 0#3 [Pins.nak]) ∧
    SendsPremises (initPlan (testCfg 2 0)).writes 6#3 (idleAt (testCfg 2 0) [Pins.offer 0#32])
      (busyAt (testCfg 2 0) 0#32 6#3 [Pins.ack]) (busyAt (testCfg 2 0) 0#32 6#3 [Pins.nak]) :=
  ⟨sendsPremises _ _ _ (by decide), sendsPremises _ _ _ (by decide)⟩

/-- Channels 1 and `N_MOTOR` are valid, 0, `N_MOTOR` + 1 and 255 are not. -/
theorem witness_motor_channels : (1 ≤ 1 ∧ 1 ≤ (testCfg 2 0).nMotor) ∧ (1 ≤ 2 ∧ 2 ≤ (testCfg 2 0).nMotor) ∧
    ¬(1 ≤ 0 ∧ 0 ≤ (testCfg 2 0).nMotor) ∧ ¬(1 ≤ 3 ∧ 3 ≤ (testCfg 2 0).nMotor) ∧ ¬(1 ≤ 255 ∧ 255 ≤ (testCfg 2 0).nMotor) := by
  decide

theorem witness_MotorFwdSendsForwardPairFirst :
    SendsPremises (planOf (testCfg 2 0) (.motorFwd 2 100)).writes 0#3 (idleAt (testCfg 2 0) [Pins.offer 0x50020064#32])
      (busyAt (testCfg 2 0) 0x50020064#32 0#3 [Pins.ack]) (busyAt (testCfg 2 0) 0x50020064#32 0#3 [Pins.nak]) ∧
    SendsPremises (planOf (testCfg 2 0) (.motorFwd 2 100)).writes 3#3 (idleAt (testCfg 2 0) [Pins.offer 0x50020064#32])
      (busyAt (testCfg 2 0) 0x50020064#32 3#3 [Pins.ack]) (busyAt (testCfg 2 0) 0x50020064#32 3#3 [Pins.nak]) :=
  ⟨sendsPremises _ _ _ (by decide), sendsPremises _ _ _ (by decide)⟩
theorem witness_MotorRevSendsReversePairFirst :
    SendsPremises (planOf (testCfg 2 0) (.motorRev 1 50)).writes 0#3 (idleAt (testCfg 2 0) [Pins.offer 0x60010032#32])
      (busyAt (testCfg 2 0) 0x60010032#32 0#3 [Pins.ack]) (busyAt (testCfg 2 0) 0x60010032#32 0#3 [Pins.nak]) ∧
    SendsPremises (planOf (testCfg 2 0) (.motorRev 1 50)).writes 3#3 (idleAt (testCfg 2 0) [Pins.offer 0x60010032#32])
      (busyAt (testCfg 2 0) 0x60010032#32 3#3 [Pins.ack]) (busyAt (testCfg 2 0) 0x60010032#32 3#3 [Pins.nak]) :=
  ⟨sendsPremises _ _ _ (by decide), sendsPremises _ _ _ (by decide)⟩
theorem witness_MotorDirOffSendsFourZeros :
    SendsPremises (specZeroWrites 1) 0#3 (idleAt (testCfg 2 0) [Pins.offer 0x40010000#32])
      (busyAt (testCfg 2 0) 0x40010000#32 0#3 [Pins.ack]) (busyAt (testCfg 2 0) 0x40010000#32 0#3 [Pins.nak]) ∧
    SendsPremises (specZeroWrites 1) 3#3 (idleAt (testCfg 2 0) [Pins.offer 0x40010000#32])
      (busyAt (testCfg 2 0) 0x40010000#32 3#3 [Pins.ack]) (busyAt (testCfg 2 0) 0x40010000#32 3#3 [Pins.nak]) :=
  ⟨sendsPremises _ _ _ (by decide), sendsPremises _ _ _ (by decide)⟩
theorem witness_MotorBadZeroesThenReportsDirection :
    SendsPremises (specZeroWrites 2) 0#3 (idleAt (testCfg 2 0) [Pins.offer 0x70020000#32])
      (busyAt (testCfg 2 0) 0x70020000#32 0#3 [Pins.ack]) (busyAt (testCfg 2 0) 0x70020000#32 0#3 [Pins.nak]) ∧
    SendsPremises (specZeroWrites 2) 3#3 (idleAt (testCfg 2 0) [Pins.offer 0x70020000#32])
      (busyAt (testCfg 2 0) 0x70020000#32 3#3 [Pins.ack]) (busyAt (testCfg 2 0) 0x70020000#32 3#3 [Pins.nak]) :=
  ⟨sendsPremises _ _ _ (by decide), sendsPremises _ _ _ (by decide)⟩
theorem witness_MotorOffSendsFourZeros :
    SendsPremises (specZeroWrites 1) 0#3 (idleAt (testCfg 2 0) [Pins.offer 0xC0010000#32])
      (busyAt (testCfg 2 0) 0xC0010000#32 0#3 [Pins.ack]) (busyAt (testCfg 2 0) 0xC0010000#32 0#3 [Pins.nak]) ∧
    SendsPremises (specZeroWrites 1) 3#3 (idleAt (testCfg 2 0) [Pins.offer 0xC0010000#32])
      (busyAt (testCfg 2 0) 0xC0010000#32 3#3 [Pins.ack]) (busyAt (testCfg 2 0) 0xC0010000#32 3#3 [Pins.nak]) :=
  ⟨sendsPremises _ _ _ (by decide), sendsPremises _ _ _ (by decide)⟩
theorem witness_ServoSendsLowThenHigh :
    SendsPremises (planOf (testCfg 2 0) (.servo 8 180)).writes 0#3 (idleAt (testCfg 2 0) [Pins.offer 0x800800B4#32])
      (busyAt (testCfg 2 0) 0x800800B4#32 0#3 [Pins.ack]) (busyAt (testCfg 2 0) 0x800800B4#32 0#3 [Pins.nak]) ∧
    SendsPremises (planOf (testCfg 2 0) (.servo 8 180)).writes 1#3 (idleAt (testCfg 2 0) [Pins.offer 0x800800B4#32])
      (busyAt (testCfg 2 0) 0x800800B4#32 1#3 [Pins.ack]) (busyAt (testCfg 2 0) 0x800800B4#32 1#3 [Pins.nak]) :=
  ⟨sendsPremises _ _ _ (by decide), sendsPremises _ _ _ (by decide)⟩
theorem witness_servo_channels : (1 ≤ 1 ∧ 1 ≤ 8) ∧ (1 ≤ 8 ∧ 8 ≤ 8) ∧ ¬(1 ≤ 0 ∧ 0 ≤ 8) ∧ ¬(1 ≤ 9 ∧ 9 ≤ 8) ∧ ¬(1 ≤ 255 ∧ 255 ≤ 8) := by
  decide

/-- An invalid channel of each form that has one, at an accepting state. -/
theorem witness_InvalidChannelTouchesNothing :
    (∀ i ∈ [Instr.motorDirOff 0, .motorFwd 3 9, .motorRev 255 9, .motorBad 3, .servo 0 9, .servo 9 9, .motorOff 3],
      ¬ channelValid (testCfg 2 0) i) ∧
    (idleAt (testCfg 2 0) [Pins.offer 0x8009005A#32]).phase = .idle ∧
    (idleAt (testCfg 2 0) [Pins.offer 0x8009005A#32]).pins.cmdValid = true :=
  ⟨by simp [channelValid, testCfg], rfl, rfl⟩

/-- Illegal word; invalid channel with a bad direction; `err` at the last write; `ack` at the last write. -/
theorem witness_ConditionsInPriorityOrder :
    ((idleAt (testCfg 2 0) [Pins.offer 0x7F090000#32]).pins.rst = false ∧
      (idleAt (testCfg 2 0) [Pins.offer 0x7F090000#32]).pins.cmdValid = true ∧
      (0x7F090000#32).toNat / 2 ^ 24 % 16 ≠ 0) ∧
    (decode 0x70090000#32 = .ok (.motorBad 9) ∧ ¬(1 ≤ 9 ∧ 9 ≤ (testCfg 2 0).nMotor)) ∧
    ((busyAt (testCfg 2 0) 0x70020000#32 3#3 [Pins.nak]).widx.toNat < (planOf (testCfg 2 0) (.motorBad 2)).writes.length ∧
      (busyAt (testCfg 2 0) 0x70020000#32 3#3 [Pins.nak]).pins.wrReady = true ∧
      (busyAt (testCfg 2 0) 0x70020000#32 3#3 [Pins.nak]).pins.wrErr = true) ∧
    ((busyAt (testCfg 2 0) 0x70020000#32 3#3 [Pins.ack]).widx = 3#3 ∧
      (busyAt (testCfg 2 0) 0x70020000#32 3#3 [Pins.ack]).pins.wrReady = true ∧
      (busyAt (testCfg 2 0) 0x70020000#32 3#3 [Pins.ack]).pins.wrErr = false) := by decide

theorem witness_SpeedAndAngleNeverFail : (1 ≤ 2 ∧ 2 ≤ (testCfg 2 0).nMotor) ∧ (1 ≤ 8 ∧ 8 ≤ 8) := by decide

/-- A whole MOTOR.FWD, a whole SERVO and a whole INIT. -/
theorem witness_AcknowledgedCommandRunsToItsResponse :
    (decode 0x50010064#32 = .ok (.motorFwd 1 100) ∧ channelValid (testCfg 2 0) (.motorFwd 1 100) ∧
      (idleAt (testCfg 2 0) (Pins.offer 0x50010064#32 :: (List.replicate 4 Pins.ack ++ [Pins.take, quietPins]))).inbox =
        Pins.offer 0x50010064#32 :: (List.replicate (planOf (testCfg 2 0) (.motorFwd 1 100)).writes.length Pins.ack ++
          Pins.take :: [quietPins])) ∧
    (decode 0x800800B4#32 = .ok (.servo 8 180) ∧ channelValid (testCfg 2 0) (.servo 8 180) ∧
      (planOf (testCfg 2 0) (.servo 8 180)).writes.length = 2) ∧
    (decode 0#32 = .ok .init ∧ channelValid (testCfg 2 0) .init ∧ (planOf (testCfg 2 0) .init).writes.length = 7) :=
  ⟨⟨by decide, ⟨by decide, by decide⟩, rfl⟩, ⟨by decide, ⟨by decide, by decide⟩, rfl⟩, ⟨by decide, trivial, rfl⟩⟩

/-- Section 2.7: MOTOR 1, rev, 100 failing at write 2, and INIT at its first and last write. -/
theorem witness_FailedWriteCutsCommandShort :
    (decode 0x60010064#32 = .ok (.motorRev 1 100) ∧
      (planOf (testCfg 2 0) (.motorRev 1 100)).writes[2]? = some ⟨.chip, 0x28#8, 0#8⟩ ∧
      (idleAt (testCfg 2 0) [Pins.offer 0x60010064#32, Pins.ack, Pins.ack, Pins.nak, Pins.take]).inbox =
        Pins.offer 0x60010064#32 :: (List.replicate 2 Pins.ack ++ Pins.nak :: Pins.take :: [])) ∧
    (planOf (testCfg 2 0) .init).writes[0]? = some ⟨.reset, 0xA0#8, 0xA1#8⟩ ∧
    (planOf (testCfg 2 0) .init).writes[6]? = some ⟨.chip, 0xF8#8, 0x01#8⟩ := by decide

theorem witness_WriteCounts : channelValid (testCfg 2 0) (.motorBad 2) ∧ ¬ channelValid (testCfg 2 0) (.servo 9 0) ∧
    (0x01000000#32).toNat / 2 ^ 24 % 16 ≠ 0 :=
  ⟨⟨by decide, by decide⟩, fun h => absurd h.2 (by decide), by decide⟩

/-! ### Witnesses: frames -/

/-- Each clause: a held edge, a latched word, a kept response, an idle log, an unmoved index. -/
theorem witness_CommandRegisterFrame :
    (∃ t, exec (.motorFwd 1 100) (busyAt (testCfg 2 0) 0x50010064#32 1#3 [Pins.ack]) = .next t ∧ t.phase ≠ .resp) ∧
    (∃ t, exec (.motorFwd 1 100) (busyAt (testCfg 2 0) 0x50010064#32 1#3 [Pins.nak]) = .next t) ∧
    (∃ t, exec (.motorFwd 1 100) (busyAt (testCfg 2 0) 0x50010064#32 1#3 [quietPins]) = .next t) ∧
    (∃ t, exec (.motorFwd 1 100) (idleAt (testCfg 2 0) [quietPins]) = .next t) ∧
    (∃ t, exec (.motorFwd 1 100) (respAt (testCfg 2 0) 0x50010064#32 4#3 0#4 [Pins.take]) = .next t) :=
  ⟨⟨_, rfl, by decide⟩, ⟨_, rfl⟩, ⟨_, rfl⟩, ⟨_, rfl⟩, ⟨_, rfl⟩⟩

/-- Each clause: another address than the offered one (0x29), the offered one, and a phase that stores nothing. -/
theorem witness_CommandMemoryFrame :
    (∃ t, exec (.motorFwd 1 100) (busyAt (testCfg 2 0) 0x50010064#32 1#3 [Pins.ack]) = .next t) ∧
    (planOf (testCfg 2 0) (.motorFwd 1 100)).writes[1]? = some ⟨.chip, 0x29#8, 0x0F#8⟩ ∧ 0x28 ≠ (0x29#8).toNat ∧
    (∃ t, exec (.motorFwd 1 100) (respAt (testCfg 2 0) 0x50010064#32 4#3 0#4 [Pins.take]) = .next t) :=
  ⟨⟨_, rfl⟩, by decide, by decide, ⟨_, rfl⟩⟩

theorem witness_MotorCommandFrame :
    (∃ t, exec (.motorOff 2) (busyAt (testCfg 2 0) 0xC0020000#32 0#3 [Pins.ack]) = .next t) ∧ motorOf (.motorOff 2) = some 2 ∧
    0x28 ≠ (specMotorReg 2 0).toNat ∧ 0x28 ≠ (specMotorReg 2 1).toNat ∧ 0x28 ≠ (specMotorReg 2 4).toNat ∧
    0x28 ≠ (specMotorReg 2 5).toNat :=
  ⟨⟨_, rfl⟩, rfl, by decide, by decide, by decide, by decide⟩

theorem witness_ServoCommandFrame :
    (∃ t, exec (.servo 8 90) (busyAt (testCfg 2 0) 0x8008005A#32 1#3 [Pins.ack]) = .next t) ∧
    0x26 ≠ (specServoReg 8 0).toNat ∧ 0x26 ≠ (specServoReg 8 1).toNat :=
  ⟨⟨_, rfl⟩, by decide, by decide⟩

/-! ### Witnesses: the step -/

/-- A word offered to the Idle block, a command in flight, and (for the second conclusion) a state with no write to
offer, which no run reaches. -/
theorem witness_StepRunsDecodedCommand :
    ((idleAt (testCfg 2 0) [Pins.offer 0x50010064#32]).pins.rst = false ∧
      (idleAt (testCfg 2 0) [Pins.offer 0x50010064#32]).pins.cmdValid = true ∧
      decode (idleAt (testCfg 2 0) [Pins.offer 0x50010064#32]).pins.cmd = .ok (.motorFwd 1 100) ∧
      (nextOf (exec (.motorFwd 1 100) (idleAt (testCfg 2 0) [Pins.offer 0x50010064#32]))).isSome = true) ∧
    ((busyAt (testCfg 2 0) 0x50010064#32 1#3 [Pins.ack]).phase ≠ .idle ∧
      decode (busyAt (testCfg 2 0) 0x50010064#32 1#3 [Pins.ack]).cmdr = .ok (.motorFwd 1 100) ∧
      (nextOf (exec (.motorFwd 1 100) (busyAt (testCfg 2 0) 0x50010064#32 1#3 [Pins.ack]))).isSome = true) ∧
    (nextOf (exec (.motorFwd 1 100) (busyAt (testCfg 2 0) 0x50010064#32 4#3 [Pins.ack]))).isNone = true := by decide

theorem witness_IllegalWordIsAnswered : (idleAt (testCfg 2 0) [Pins.offer 0xFFFFFFFF#32]).pins.rst = false ∧
    (idleAt (testCfg 2 0) [Pins.offer 0xFFFFFFFF#32]).phase = .idle ∧
    (idleAt (testCfg 2 0) [Pins.offer 0xFFFFFFFF#32]).pins.cmdValid = true ∧
    (idleAt (testCfg 2 0) [Pins.offer 0xFFFFFFFF#32]).pins.cmd.toNat / 2 ^ 24 % 16 ≠ 0 := by decide

theorem witness_DeliveryReturnsToIdle : (respAt (testCfg 2 0) 0x50010064#32 1#3 3#4 [Pins.take]).pins.rst = false ∧
    (respAt (testCfg 2 0) 0x50010064#32 1#3 3#4 [Pins.take]).phase = .resp ∧
    (respAt (testCfg 2 0) 0x50010064#32 1#3 3#4 [Pins.take]).pins.rspReady = true := by decide

/-- MOTOR 1, fwd, 100 after its first two writes (program P2). -/
def midForward (pins : List Pins) : State :=
  ⟨.busy, 0x50010064#32, 2#3, 0#4, image [(0x28, 0xFF#8), (0x29, 0x0F#8)],
    [⟨⟨.chip, 0x28#8, 0xFF#8⟩, .ack⟩, ⟨⟨.chip, 0x29#8, 0x0F#8⟩, .ack⟩], [], testCfg 2 0, pins, 5⟩

/-- MOTOR 1, fwd, 100 answered OK (program P2). -/
def doneForward (pins : List Pins) : State :=
  ⟨.resp, 0x50010064#32, 4#3, 0#4, image [(0x28, 0xFF#8), (0x29, 0x0F#8), (0x2C, 0#8), (0x2D, 0#8)],
    [⟨⟨.chip, 0x28#8, 0xFF#8⟩, .ack⟩, ⟨⟨.chip, 0x29#8, 0x0F#8⟩, .ack⟩, ⟨⟨.chip, 0x2C#8, 0#8⟩, .ack⟩,
      ⟨⟨.chip, 0x2D#8, 0#8⟩, .ack⟩], [], testCfg 2 0, pins, 7⟩

/-- MOTOR 1, fwd, 100 with its second write failed (section 2.7). -/
def failedForward (pins : List Pins) : State :=
  ⟨.resp, 0x50010064#32, 1#3, 3#4, image [(0x28, 0xFF#8)],
    [⟨⟨.chip, 0x28#8, 0xFF#8⟩, .ack⟩, ⟨⟨.chip, 0x29#8, 0x0F#8⟩, .err⟩], [], testCfg 2 0, pins, 4⟩

/-- SERVO 3, 180 answered OK with `ovf` (program P1). -/
def doneServo (pins : List Pins) : State :=
  ⟨.resp, 0x800300B4#32, 2#3, 8#4, image [(0x10, 0#8), (0x11, 0#8)],
    [⟨⟨.chip, 0x10#8, 0#8⟩, .ack⟩, ⟨⟨.chip, 0x11#8, 0#8⟩, .ack⟩], [], testCfg 2 0, pins, 4⟩

/-- MOTOR 2, bad answered InvalidDirection (program P3). -/
def doneBad (pins : List Pins) : State :=
  ⟨.resp, 0x70020000#32, 4#3, 1#4, image [(0x30, 0#8), (0x31, 0#8), (0x34, 0#8), (0x35, 0#8)],
    [⟨⟨.chip, 0x30#8, 0#8⟩, .ack⟩, ⟨⟨.chip, 0x31#8, 0#8⟩, .ack⟩, ⟨⟨.chip, 0x34#8, 0#8⟩, .ack⟩,
      ⟨⟨.chip, 0x35#8, 0#8⟩, .ack⟩], [], testCfg 2 0, pins, 7⟩

/-- The log of an INIT sent whole (R101). -/
def initLog : List LogEntry :=
  [⟨⟨.reset, 0xA0#8, 0xA1#8⟩, .ack⟩, ⟨⟨.chip, 0xF9#8, 0x78#8⟩, .ack⟩, ⟨⟨.chip, 0xFA#8, 0xB0#8⟩, .ack⟩,
    ⟨⟨.chip, 0xFB#8, 0xB1#8⟩, .ack⟩, ⟨⟨.chip, 0xFC#8, 0xB2#8⟩, .ack⟩, ⟨⟨.chip, 0xFD#8, 0xB3#8⟩, .ack⟩,
    ⟨⟨.chip, 0xF8#8, 0x01#8⟩, .ack⟩]

/-- The registers after an INIT. -/
def initImage : Memory :=
  image [(0xF9, 0x78#8), (0xFA, 0xB0#8), (0xFB, 0xB1#8), (0xFC, 0xB2#8), (0xFD, 0xB3#8), (0xF8, 0x01#8)]

/-- INIT answered OK (R101), after these withdrawn writes. -/
def doneInit (cuts : List Withdrawn) (pins : List Pins) : State :=
  ⟨.resp, 0#32, 7#3, 0#4, initImage, initLog, cuts, testCfg 2 0, pins, 10⟩

/-- A second INIT just accepted: its RESET write is offered. -/
def secondInit (pins : List Pins) : State :=
  ⟨.busy, 0#32, 0#3, 0#4, initImage, initLog, [], testCfg 2 0, pins, 12⟩

/-- A first INIT with three of its writes sent. -/
def midInit (pins : List Pins) : State :=
  ⟨.busy, 0#32, 3#3, 0#4, image [(0xF9, 0x78#8), (0xFA, 0xB0#8)], initLog.take 3, [], testCfg 2 0, pins, 6⟩

/-- INIT with its first write failed. -/
def failedInit (pins : List Pins) : State :=
  ⟨.resp, 0#32, 0#3, 3#4, image [], [⟨⟨.reset, 0xA0#8, 0xA1#8⟩, .err⟩], [], testCfg 2 0, pins, 3⟩

/-- The invariant does not look at the pins to come. -/
theorem inv_withPins {s : State} (h : s.Inv) (pins : List Pins) : State.Inv { s with inbox := pins } where
  cfg  := h.cfg
  reg  := h.reg
  cuts := h.cuts
  busy := fun hp => ⟨(h.busy hp).widx, (h.busy hp).log, (h.busy hp).cuts, (h.busy hp).image⟩
  resp := fun hp => (h.resp hp).imp (fun d => ⟨d.rsp, d.widx, d.log, d.cuts, d.image⟩) (fun f => ⟨f.rsp, f.log⟩)

theorem idleAt_inv (pins : List Pins) : (idleAt (testCfg 2 0) pins).Inv :=
  ⟨test_cfg_valid_two, image_wf _, nofun, nofun, nofun⟩

/-- A state in Busy after the writes before `widx`, from facts about a literal. -/
theorem busy_inv (s : State) (hp : s.phase = .busy) (hc : s.cfg.valid = true) (hm : s.reg.wf = true)
    (hcuts : s.withdrawn = []) (hw : s.widx.toNat < s.plan.writes.length) (hl : s.plan.acked s.widx.toNat <:+ s.wlog)
    (hs : ∀ w ∈ s.plan.writes.take s.widx.toNat, w.target = .chip → s.reg.read w.reg.toNat = some w.data) : s.Inv :=
  ⟨hc, hm, by simp [hcuts], fun _ => ⟨hw, hl, by simp [hcuts], fun _ => hs⟩, fun h => by simp [hp] at h⟩

/-- A state in Resp after its whole list, from facts about a literal. -/
theorem done_inv (s : State) (hp : s.phase = .resp) (hc : s.cfg.valid = true) (hm : s.reg.wf = true)
    (hcuts : ∀ c ∈ s.withdrawn, c.sent + s.plan.writes.length ≤ s.wlog.length)
    (hr : s.rsp = packRsp s.plan.code s.plan.ovf) (hw : s.widx.toNat = s.plan.writes.length)
    (hl : s.plan.acked s.plan.writes.length <:+ s.wlog)
    (hs : ∀ w ∈ s.plan.writes.take s.plan.writes.length, w.target = .chip → s.reg.read w.reg.toNat = some w.data) :
    s.Inv :=
  ⟨hc, hm, fun c h => Nat.le_of_add_right_le (hcuts c h), fun h => by simp [hp] at h,
    fun _ => .inl ⟨hr, hw, hl, hcuts, fun _ => hs⟩⟩

theorem midForward_inv (pins : List Pins) : (midForward pins).Inv :=
  inv_withPins (busy_inv (midForward []) rfl (by decide) (image_wf _) rfl (by decide) (by decide) (by decide +kernel)) pins

theorem secondInit_inv (pins : List Pins) : (secondInit pins).Inv :=
  inv_withPins (busy_inv (secondInit []) rfl (by decide) (image_wf _) rfl (by decide) (by decide) (by decide +kernel)) pins

theorem midInit_inv (pins : List Pins) : (midInit pins).Inv :=
  inv_withPins (busy_inv (midInit []) rfl (by decide) (image_wf _) rfl (by decide) (by decide) (by decide +kernel)) pins

theorem doneForward_inv (pins : List Pins) : (doneForward pins).Inv :=
  inv_withPins (done_inv (doneForward []) rfl (by decide) (image_wf _) nofun (by decide) (by decide) (by decide)
    (by decide +kernel)) pins

theorem failedForward_inv (pins : List Pins) : (failedForward pins).Inv :=
  inv_withPins (s := failedForward [])
    ⟨by decide, image_wf _, nofun, nofun,
      fun _ => .inr ⟨by decide, ⟨.chip, 0x29#8, 0x0F#8⟩, by decide, by decide⟩⟩ pins

theorem failedInit_inv (pins : List Pins) : (failedInit pins).Inv :=
  inv_withPins (s := failedInit [])
    ⟨by decide, image_wf _, nofun, nofun,
      fun _ => .inr ⟨by decide, ⟨.reset, 0xA0#8, 0xA1#8⟩, by decide, by decide⟩⟩ pins

theorem doneServo_inv (pins : List Pins) : (doneServo pins).Inv :=
  inv_withPins (done_inv (doneServo []) rfl (by decide) (image_wf _) nofun (by decide) (by decide) (by decide)
    (by decide +kernel)) pins

theorem doneBad_inv (pins : List Pins) : (doneBad pins).Inv :=
  inv_withPins (done_inv (doneBad []) rfl (by decide) (image_wf _) nofun (by decide) (by decide) (by decide)
    (by decide +kernel)) pins

/-- An INIT cut by a reset while its RESET write was offered, and then a whole one. -/
def cutReset : List Withdrawn := [⟨⟨.reset, 0xA0#8, 0xA1#8⟩, 0⟩]

theorem doneInit_inv (pins : List Pins) : (doneInit cutReset pins).Inv :=
  inv_withPins (done_inv (doneInit cutReset []) rfl (by decide) (image_wf _) (by decide) (by decide) (by decide)
    (by decide) (by decide +kernel)) pins

/-- Each of the three ways to have no transfer. -/
theorem witness_NoTransferHoldsThePorts :
    ((idleAt (testCfg 2 0) [quietPins]).Inv ∧ (idleAt (testCfg 2 0) [quietPins]).pins.cmdValid = false) ∧
    ((midForward [quietPins]).Inv ∧ (midForward [quietPins]).pins.wrReady = false) ∧
    ((doneServo [quietPins]).Inv ∧ (doneServo [quietPins]).pins.rspReady = false) :=
  ⟨⟨idleAt_inv _, rfl⟩, ⟨midForward_inv _, rfl⟩, ⟨doneServo_inv _, rfl⟩⟩

theorem witness_PortsFollowThePhase : (midForward []).Inv ∧ (midForward []).phase = .busy ∧
    decode (midForward []).cmdr = .ok (.motorFwd 1 100) ∧ (doneServo []).Inv ∧ (doneServo []).phase = .resp :=
  ⟨midForward_inv _, rfl, by decide, doneServo_inv _, rfl⟩

theorem witness_CommandPortIgnoredInFlight : (midForward [Pins.ack]).phase ≠ .idle ∧ (midForward [Pins.ack]).inbox = [Pins.ack] ∧
    (doneServo [Pins.take]).phase ≠ .idle := by decide

theorem witness_ConfigurationIsImmutable : ∃ t, step (midForward [Pins.ack]) = .next t := ⟨_, rfl⟩

/-- Each clause: acceptance, an acknowledged write, and an edge that leaves the index alone. -/
theorem witness_WriteIndexMovesByOne :
    (∃ t, step (idleAt (testCfg 2 0) [Pins.offer 0#32]) = .next t) ∧ (idleAt (testCfg 2 0) [Pins.offer 0#32]).Inv ∧
    (∃ t, step (midForward [Pins.ack]) = .next t) ∧ (midForward [Pins.ack]).Inv ∧
    (∃ t, step (midForward [Pins.nak]) = .next t) ∧ (midForward [Pins.nak]).Inv ∧
    (∃ t, step (doneServo [Pins.take]) = .next t) ∧ (doneServo [Pins.take]).Inv :=
  ⟨⟨_, rfl⟩, idleAt_inv _, ⟨_, rfl⟩, midForward_inv _, ⟨_, rfl⟩, midForward_inv _, ⟨_, rfl⟩, doneServo_inv _⟩

/-- Each phase, with and without a transfer. -/
theorem witness_PhasesFollowTheSequencer :
    (∃ t, step (idleAt (testCfg 2 0) [quietPins]) = .next t) ∧
    (∃ t, step (idleAt (testCfg 2 0) [Pins.offer 0x8009005A#32]) = .next t) ∧
    (∃ t, step (busyAt (testCfg 2 0) 0x8001005A#32 1#3 [Pins.ack]) = .next t) ∧
    (∃ t, step (doneServo [Pins.take]) = .next t) := ⟨⟨_, rfl⟩, ⟨_, rfl⟩, ⟨_, rfl⟩, ⟨_, rfl⟩⟩

theorem witness_LogGainsTheOfferedWrite : (∃ t, step (midForward [Pins.nak]) = .next t) ∧
    (∃ t, step (midForward [rstPins]) = .next t) := ⟨⟨_, rfl⟩, ⟨_, rfl⟩⟩

theorem witness_ImageIsReplayOfLog : (midForward [Pins.ack]).pins.rst = false ∧ (∃ t, step (midForward [Pins.ack]) = .next t) ∧
    (midForward [Pins.ack]).reg = replay (image []) (midForward [Pins.ack]).wlog := ⟨rfl, ⟨_, rfl⟩, rfl⟩

theorem witness_BlockIgnoresImageAndHistory : ∃ t, step (midForward [Pins.ack]) = .next t := ⟨_, rfl⟩

/-! ### Witnesses: reset, invariants, hazards -/

theorem witness_ResetEdgeReturnsToIdle : (midForward [rstPins]).pins.rst = true := rfl

/-- Section 2.10: a reset with write 2 offered, and a reset of an Idle block. -/
theorem witness_ResetChangesAtMostTheWithdrawnRegister :
    ((midForward [rstPins]).pins.rst = true ∧ ∃ t, step (midForward [rstPins]) = .next t) ∧
    ((idleAt (testCfg 2 0) [rstPins]).pins.rst = true ∧ (idleAt (testCfg 2 0) [rstPins]).phase ≠ .busy ∧
      ∃ t, step (idleAt (testCfg 2 0) [rstPins]) = .next t) :=
  ⟨⟨rfl, ⟨_, rfl⟩⟩, ⟨rfl, nofun, ⟨_, rfl⟩⟩⟩

theorem witness_StepKeepsInvariant : (midForward [Pins.ack]).Inv ∧ (∃ t, step (midForward [Pins.ack]) = .next t) ∧
    (failedForward [Pins.take]).Inv ∧ (∃ t, step (failedForward [Pins.take]) = .next t) ∧
    (doneForward [Pins.take]).Inv ∧ (∃ t, step (doneForward [Pins.take]) = .next t) :=
  ⟨midForward_inv _, ⟨_, rfl⟩, failedForward_inv _, ⟨_, rfl⟩, doneForward_inv _, ⟨_, rfl⟩⟩

theorem witness_RunsNeverStop : (midForward []).Inv := midForward_inv _

theorem witness_ResponseRecordIsLegal : (doneServo []).Inv ∧ (doneServo []).phase = .resp ∧
    rspOvf (doneServo []).rsp = 1#1 := ⟨doneServo_inv _, rfl, by decide⟩

/-- A motor command answered OK, and one answered InvalidDirection. -/
theorem witness_MotorPairsExcludeEachOther :
    ((doneForward []).Inv ∧ (doneForward []).phase = .resp ∧ decode (doneForward []).cmdr = .ok (.motorFwd 1 100) ∧
      motorOf (.motorFwd 1 100) = some 1 ∧ rspCode (doneForward []).rsp = 0#3) ∧
    ((doneBad []).Inv ∧ (doneBad []).phase = .resp ∧ decode (doneBad []).cmdr = .ok (.motorBad 2) ∧
      motorOf (.motorBad 2) = some 2 ∧ rspCode (doneBad []).rsp = 1#3) :=
  ⟨⟨doneForward_inv _, rfl, by decide, rfl, by decide⟩, ⟨doneBad_inv _, rfl, by decide, rfl, by decide⟩⟩

/-- Program P2, both directions of a reversal. -/
theorem witness_ReversalDrivesBothPairs :
    (testCfg 2 0).valid = true ∧ (1 ≤ 1 ∧ 1 ≤ (testCfg 2 0).nMotor) ∧ (pwmMotor (testCfg 2 0) 50).toNat ≠ 0 ∧
    decode 0x60010032#32 = .ok (.motorRev 1 50) ∧ decode 0x50010032#32 = .ok (.motorFwd 1 50) ∧
    (idleAt (testCfg 2 0) [Pins.offer 0x60010032#32, Pins.ack, Pins.ack]).inbox =
      Pins.offer 0x60010032#32 :: Pins.ack :: Pins.ack :: [] ∧
    pairNonzero [(0x28, 0xFF#8), (0x29, 0x0F#8)] (specMotorReg 1 0) ∧
    pairNonzero [(0x2C, 0x00#8), (0x2D, 0x08#8)] (specMotorReg 1 4) :=
  ⟨by decide, by decide, by decide, by decide, by decide, rfl, ⟨0xFF#8, by decide, .inl rfl⟩,
    ⟨0x08#8, by decide, .inr rfl⟩⟩

/-- Both directions, in mid-command with the other pair zero. -/
theorem witness_OffThenNewDirectionIsClean :
    (testCfg 2 0).valid = true ∧ (1 ≤ 1 ∧ 1 ≤ (testCfg 2 0).nMotor) ∧
    (∃ t, exec (.motorFwd 1 100) { midForward [Pins.ack] with reg := [(0x2C, 0#8), (0x2D, 0#8)] } = .next t) ∧
    pairZero [(0x2C, 0#8), (0x2D, 0#8)] (specMotorReg 1 4) ∧
    (∃ t, exec (.motorRev 1 100) { midForward [Pins.ack] with reg := [(0x28, 0#8), (0x29, 0#8)] } = .next t) ∧
    pairZero [(0x28, 0#8), (0x29, 0#8)] (specMotorReg 1 0) :=
  ⟨by decide, by decide, ⟨_, rfl⟩, ⟨rfl, rfl⟩, ⟨_, rfl⟩, ⟨rfl, rfl⟩⟩

theorem witness_TornServoValueIsVisible : (1 ≤ 8 ∧ 8 ≤ 8) ∧ (busyAt (testCfg 2 0) 0x80080044#32 0#3 [Pins.ack]).phase = .busy ∧
    (busyAt (testCfg 2 0) 0x80080044#32 0#3 [Pins.ack]).pins.wrReady = true ∧
    (busyAt (testCfg 2 0) 0x80080044#32 0#3 [Pins.ack]).pins.wrErr = false := by decide

/-- The log of `doneInit` is one whole INIT, and the write withdrawn before it does not matter. -/
theorem doneInit_chipTimingDefined (pins : List Pins) : (doneInit cutReset pins).chipTimingDefined :=
  ⟨fun h => (nomatch h.1), [], [], rfl, nofun, by simp [doneInit, cutReset, Withdrawn.spares]⟩

/-- INIT answered OK after one that a reset cut; and the step that ends its command. -/
theorem witness_InitDefinesChipTiming :
    ((doneInit cutReset []).Inv ∧ (doneInit cutReset []).phase = .resp ∧ decode (doneInit cutReset []).cmdr = .ok .init ∧
      rspCode (doneInit cutReset []).rsp = 0#3) ∧
    ((doneInit cutReset [Pins.take]).chipTimingDefined ∧
      ∃ t, step (doneInit cutReset [Pins.take]) = .next t ∧ ¬ t.sendingInit) :=
  ⟨⟨doneInit_inv _, rfl, by decide, by decide⟩, doneInit_chipTimingDefined _, _, rfl, fun h => nomatch h.1⟩

theorem witness_EveryRegisterHoldsAByte : (midForward [Pins.ack]).Inv ∧ ∃ t, step (midForward [Pins.ack]) = .next t :=
  ⟨midForward_inv _, _, rfl⟩

/-- Clause 1 at write 0 of a second INIT, whose RESET may have landed, and at write 3 of a first; clause 2 at a failed
INIT. -/
theorem witness_CutInitEndsChipTiming :
    ((secondInit [rstPins]).Inv ∧ (secondInit [rstPins]).sendingInit ∧ (secondInit [rstPins]).pins.rst = true ∧
      ∃ t, step (secondInit [rstPins]) = .next t) ∧
    ((midInit [rstPins]).Inv ∧ (midInit [rstPins]).sendingInit ∧ (midInit [rstPins]).pins.rst = true ∧
      ∃ t, step (midInit [rstPins]) = .next t) ∧
    ((failedInit []).Inv ∧ (failedInit []).phase = .resp ∧ decode (failedInit []).cmdr = .ok .init ∧
      rspCode (failedInit []).rsp = 3#3) :=
  ⟨⟨secondInit_inv _, ⟨rfl, by decide⟩, rfl, _, rfl⟩, ⟨midInit_inv _, ⟨rfl, by decide⟩, rfl, _, rfl⟩,
    failedInit_inv _, rfl, by decide, by decide⟩

end Sys2Proof.Tests
end

namespace Sys2Proof.Machine

/-- Settles O40, by the cases of `step_next_cases`: each is a composition of named updates, none of which writes `cfg`
(00_scope.md R7, 10_state.md R28). -/
theorem configurationIsImmutable : Obligations.ConfigurationIsImmutable := by
  intro s t h
  cases step_next_cases h with
  | rst => rw [State.endEdge_cfg, State.resetEdge_cfg]
  | accept => rw [State.endEdge_cfg, State.accept_cfg]
  | hold => rw [State.endEdge_cfg]
  | ack => rw [State.endEdge_cfg, State.advance_cfg, State.regWrite_cfg]
  | err => rw [State.endEdge_cfg, State.respond_cfg, State.regWrite_cfg]
  | deliver => rw [State.endEdge_cfg, State.deliver_cfg]

end Sys2Proof.Machine

/-! ### What the family `10_state.md` needs beside the laws -/

namespace Sys2Proof.Config

/-! ### The parameters at reset -/

theorem getLsbD_clearBit (b : Byte) (n : Fin 8) : (clearBit b n).getLsbD n = false := by
  simp [clearBit]

/-- The sleep bit is clear in the reference `WAKE_VAL` (00_scope.md R8). -/
theorem reference_sleepBit : reference.wakeVal.getLsbD reference.sleepBit = false :=
  getLsbD_clearBit _ _

theorem reference_valid : reference.valid = true := by
  rw [valid, reference_sleepBit]; rfl

end Sys2Proof.Config

namespace Sys2Proof.Machine

/-! ### The sequencer's updates -/

/-- Acceptance sets `RSP` only where it ends the command (10_state.md R24). -/
theorem State.accept_rsp_of_phase_ne {s : State} {c : CmdWord} {p : Plan} (h : (s.accept c p).phase ≠ .resp) :
    (s.accept c p).rsp = s.rsp := by
  by_cases hw : p.writes = []
  · rw [State.accept_empty hw] at h
    exact absurd (State.respond_phase ..) h
  · rw [State.accept_nonempty hw, State.latch_rsp]

/-- An acknowledged write sets `RSP` only where it ends the command (10_state.md R24). -/
theorem State.advance_rsp_of_phase_ne {s : State} {p : Plan} (h : (s.advance p).phase ≠ .resp) :
    (s.advance p).rsp = s.rsp := by
  by_cases hl : s.widx.toNat + 1 = p.writes.length
  · rw [State.advance_last hl] at h
    exact absurd (State.respond_phase ..) h
  · rw [State.advance_more hl, State.bump_rsp]

theorem State.offeredWrite_of_busy {s : State} (h : s.phase = .busy) :
    s.offeredWrite = s.plan.writes[s.widx.toNat]? := by simp [State.offeredWrite, h]

/-- While Busy the write index is below the longest write list's length (10_state.md R22). -/
theorem State.Inv.widx_lt_of_busy {s : State} (hi : s.Inv) (h : s.phase = .busy) : s.widx.toNat < 7 :=
  (hi.busy h).widx.trans_le (planOfWord_length_le s.cfg s.cmdr)

/-- The index counts on without a wrap below 7. -/
theorem toNat_widx_add_one {k : BitVec 3} (h : k.toNat < 7) : (k + 1#3).toNat = k.toNat + 1 := by bv_omega

/-! ### The obligations on registers and the write index -/

/-- Settles O30, by the cases of the sequencer's edge: each is a composition of named updates, and the conditions of a
clause leave out the cases that write its register. -/
theorem commandRegisterFrame : Obligations.CommandRegisterFrame := by
  intro i s t h
  cases exec_next_cases h with
  | quiet | wait | hold => simp
  | accept hp hv => simpa [hp, hv] using State.accept_rsp_of_phase_ne
  | ack w hp _ hr he =>
    have hrsp := State.advance_rsp_of_phase_ne (s := s.regWrite w .ack) (p := planOf s.cfg i)
    simpa [hp, hr, he] using hrsp
  | err _ hp _ hr he => simp [hp, hr, he]
  | deliver hp => simp [hp]

/-- Settles O41: acceptance writes 0, and the invariant keeps the index of an offered write below 7, so that the next
one is no wrap (10_state.md R22). -/
theorem writeIndexMovesByOne : Obligations.WriteIndexMovesByOne := by
  intro s t hi hrst h
  cases step_next_cases h with
  | rst h1 => simp [hrst] at h1
  | accept _ hp hv => simp [hp, hv]
  | hold _ hq => rcases hq with ⟨hp, hv⟩ | ⟨hp, hr⟩ | ⟨hp, _⟩ <;> simp [*]
  | ack w _ hp _ hr he => simp [hp, hr, he, toNat_widx_add_one (hi.widx_lt_of_busy hp)]
  | err w _ hp _ hr he => simp [hp, he]
  | deliver _ hp => simp [hp]

/-! ### The obligations on `REG` and `WLOG` -/

/-- Settles O43: of the step's cases only the two completions of the offered write extend the log. -/
theorem logGainsTheOfferedWrite : Obligations.LogGainsTheOfferedWrite := by
  intro s t h
  cases step_next_cases h with
  | ack w hrst hp hw hr he | err w hrst hp hw hr he =>
    exact .inr ⟨w, hrst, hr, (State.offeredWrite_of_busy hp).trans hw, by simp [he]⟩
  | rst | accept | hold | deliver => exact .inl (by simp)

/-- A log one entry longer replays to one more effect on the image. -/
theorem replay_snoc (base : Memory) (log : List LogEntry) (e : LogEntry) :
    replay base (log ++ [e]) = (replay base log).apply e.write e.answer := by simp [replay]

/-- Settles O44: a completed write has on `REG` the effect its log entry replays to, and without a reset nothing else
writes either (10_state.md R27, 20_memory.md R44). -/
theorem imageIsReplayOfLog : Obligations.ImageIsReplayOfLog := by
  intro base s t hrst h hreg
  cases step_next_cases h with
  | rst h1 => simp [hrst] at h1
  | ack | err => simp [replay_snoc, hreg]
  | accept | hold | deliver => simpa using hreg

/-- A step keeps the register image canonical. -/
theorem step_reg_wf {s t : State} (h : step s = .next t) (hm : s.reg.wf = true) : t.reg.wf = true := by
  cases step_next_cases h with
  | rst => exact Memory.wf_withdraw hm _ _
  | ack w => simpa using Memory.wf_apply hm w .ack
  | accept | hold | err | deliver => simpa using hm

theorem Memory.exists_read_of_wf {m : Memory} (hm : m.wf = true) (a : RegAddr) : ∃ b, m.read a.toNat = some b :=
  Option.isSome_iff_exists.mp ((Memory.read_isSome_iff hm _).mpr a.isLt)

theorem Memory.read_eq_none_of_wf {m : Memory} (hm : m.wf = true) {a : Nat} (ha : 256 ≤ a) : m.read a = none := by
  rw [← Option.not_isSome_iff_eq_none, Memory.read_isSome_iff hm]
  exact Nat.not_lt.mpr ha

/-- Settles O58: a canonical image is a map on the 8-bit addresses, and a step keeps it canonical (10_state.md R26). -/
theorem everyRegisterHoldsAByte : Obligations.EveryRegisterHoldsAByte := by
  intro s t hi h
  have ht := step_reg_wf h hi.reg
  exact ⟨Memory.exists_read_of_wf hi.reg, Memory.exists_read_of_wf ht,
    fun a ha => ⟨Memory.read_eq_none_of_wf hi.reg ha, Memory.read_eq_none_of_wf ht ha⟩⟩

/-! ### The block beside its image and its records -/

/-- The same block state beside another register image, another log and another record of withdrawn writes. -/
def State.withRecords (s : State) (reg : Memory) (wlog : List LogEntry) (cuts : List Withdrawn) : State :=
  { s with reg := reg, wlog := wlog, withdrawn := cuts }

section
variable (s : State) (reg : Memory) (wlog : List LogEntry) (cuts : List Withdrawn)

theorem State.withRecords_accept (cmd : CmdWord) (p : Plan) :
    (s.withRecords reg wlog cuts).accept cmd p = (s.accept cmd p).withRecords reg wlog cuts := by
  by_cases hw : p.writes = []
  · rw [State.accept_empty hw, State.accept_empty hw]; rfl
  · rw [State.accept_nonempty hw, State.accept_nonempty hw]; rfl

theorem State.withRecords_advance (p : Plan) :
    (s.withRecords reg wlog cuts).advance p = (s.advance p).withRecords reg wlog cuts := by
  by_cases hl : s.widx.toNat + 1 = p.writes.length
  · rw [State.advance_last hl, State.advance_last (s := s.withRecords reg wlog cuts) hl]; rfl
  · rw [State.advance_more hl, State.advance_more (s := s.withRecords reg wlog cuts) hl]; rfl

theorem State.withRecords_complete (w : Write) (a : Answer) (p : Plan) :
    (s.withRecords reg wlog cuts).complete w a p =
      (s.complete w a p).withRecords (reg.apply w a) (wlog ++ [⟨w, a⟩]) cuts := by
  cases a with
  | ack => exact (s.regWrite w .ack).withRecords_advance (reg.apply w .ack) (wlog ++ [⟨w, .ack⟩]) cuts p
  | err => rfl

end

/-- The completion of the offered write beside other records: its effect on them is the write primitive's. -/
theorem runSequencer_withRecords_complete {p : Plan} {s : State} {w : Write} {a : Answer} (hp : s.phase = .busy)
    (hw : p.writes[s.widx.toNat]? = some w) (hr : s.pins.wrReady = true) (ha : s.pins.answer = a) (reg : Memory)
    (wlog : List LogEntry) (cuts : List Withdrawn) :
    runSequencer p (s.withRecords reg wlog cuts) =
      .next ((s.complete w a p).withRecords (reg.apply w a) (wlog ++ [⟨w, a⟩]) cuts) := by
  subst ha
  rw [← State.withRecords_complete]
  exact runSequencer_busy_ready (s := s.withRecords reg wlog cuts) hp hw hr

/-- One edge of the sequencer beside other records: the same block state and the same new log entries (10_state.md
R20). -/
theorem runSequencer_withRecords {p : Plan} {s t : State} (h : runSequencer p s = .next t) (reg : Memory)
    (wlog : List LogEntry) (cuts : List Withdrawn) :
    ∃ reg' new, t.wlog = s.wlog ++ new ∧
      runSequencer p (s.withRecords reg wlog cuts) = .next (t.withRecords reg' (wlog ++ new) cuts) := by
  cases runSequencer_next_cases h with
  | quiet hp hv =>
    exact ⟨reg, [], by simp, by rw [List.append_nil]; exact runSequencer_idle_quiet hp hv⟩
  | accept hp hv =>
    refine ⟨reg, [], by simp, ?_⟩
    rw [List.append_nil, ← State.withRecords_accept]
    exact runSequencer_idle_offer hp hv
  | wait w hp hw hr =>
    exact ⟨reg, [], by simp, by rw [List.append_nil]; exact runSequencer_busy_wait hp hw hr⟩
  | ack w hp hw hr he =>
    have ha : s.pins.answer = .ack := by simp [Pins.answer, he]
    exact ⟨_, [⟨w, .ack⟩], by simp, runSequencer_withRecords_complete hp hw hr ha reg wlog cuts⟩
  | err w hp hw hr he =>
    have ha : s.pins.answer = .err := by simp [Pins.answer, he]
    exact ⟨_, [⟨w, .err⟩], by simp, runSequencer_withRecords_complete hp hw hr ha reg wlog cuts⟩
  | hold hp hr =>
    exact ⟨reg, [], by simp, by rw [List.append_nil]; exact runSequencer_resp_wait hp hr⟩
  | deliver hp hr =>
    exact ⟨reg, [], by simp, by rw [List.append_nil]; exact runSequencer_resp_take hp hr⟩

/-- One step beside other records: the same block state and the same new log entries. A reset edge takes them up into
its own image and its own record of the withdrawn write (70_reset_and_hazards.md R141). -/
theorem step_withRecords {s t : State} (h : step s = .next t) (reg : Memory) (wlog : List LogEntry)
    (cuts : List Withdrawn) :
    ∃ reg' new cuts', t.wlog = s.wlog ++ new ∧
      step (s.withRecords reg wlog cuts) = .next (t.withRecords reg' (wlog ++ new) cuts') := by
  cases hrst : s.pins.rst
  · match hc : s.commandInForce with
    | none =>
      rw [step_quiet hrst hc] at h
      cases h
      exact ⟨reg, [], cuts, by simp, by rw [List.append_nil]; exact step_quiet hrst hc⟩
    | some w =>
      rw [step_word hrst hc] at h
      obtain ⟨u, hu, rfl⟩ := thenNext_next_iff.mp h
      obtain ⟨reg', new, hlog, hstep⟩ := runSequencer_withRecords hu reg wlog cuts
      exact ⟨reg', new, cuts, hlog, (step_word (s := s.withRecords reg wlog cuts) hrst hc).trans
        (congrArg (thenNext State.endEdge) hstep)⟩
  · rw [step_rst hrst] at h
    cases h
    refine ⟨(s.withRecords reg wlog cuts).resetEdge.reg, [], (s.withRecords reg wlog cuts).resetEdge.withdrawn,
      by simp, ?_⟩
    rw [List.append_nil]
    exact step_rst hrst

/-- Settles O45: the step beside the other records ends in the same state beside other records, and no pin of the block
looks at those (10_state.md R20). -/
theorem blockIgnoresImageAndHistory : Obligations.BlockIgnoresImageAndHistory := by
  intro s t reg wlog cuts h
  obtain ⟨reg', new, cuts', hlog, hstep⟩ := step_withRecords h reg wlog cuts
  exact ⟨_, hstep, rfl, rfl, rfl, rfl, rfl, rfl, rfl, rfl, new, hlog, rfl⟩

/-! ### The state after reset -/

theorem Memory.read_range' (f : Nat → Byte) {lo n a : Nat} (h : lo ≤ a) (ha : a < lo + n) :
    Memory.read ((List.range' lo n).map fun a => (a, f a)) a = some (f a) := by
  induction n generalizing lo with
  | zero => omega
  | succ n ih =>
    rw [List.range'_succ, List.map_cons, Memory.read]
    split
    · subst_vars; rfl
    · exact ih (by omega) (by omega)

/-- At the first reset each register holds its free byte (10_state.md R31). -/
theorem Memory.read_powerOn {a : Nat} (ha : a < 256) : Memory.powerOn.read a = some (Config.powerOnByte a) := by
  rw [Memory.powerOn, List.range_eq_range']
  exact Memory.read_range' _ (Nat.zero_le a) (by omega)

/-- Settles O48: the fields are those `State.reset` lists; the image and the sleep bit have lemmas of their own
(10_state.md R31, 00_scope.md R8). -/
theorem resetStateIsIdle : Obligations.ResetStateIsIdle :=
  ⟨rfl, rfl, rfl, rfl, fun _ => Memory.read_powerOn, rfl, rfl, rfl, rfl, rfl, Config.reference_sleepBit⟩

/-- Settles O49: the state after reset is Idle with nothing withdrawn, so only its configuration and its image count. -/
theorem resetMeetsInvariant : Obligations.ResetMeetsInvariant where
  cfg  := Config.reference_valid
  reg  := State.reset_reg_wf
  cuts := nofun
  busy := nofun
  resp := nofun

end Sys2Proof.Machine

/-! ### What the family `20_memory.md` needs beside the laws -/

namespace Sys2Proof.Machine

/-! ### The registers a command may name -/

/-- The registers of a motor at base `mb` that its commands write: forward pair and reverse pair (20_memory.md R43). -/
def motorRegs (mb : RegAddr) : List RegAddr := [mb, mb + 1, mb + 4, mb + 5]

/-- The registers of a servo at base `sb` that SERVO writes: low byte and high byte (20_memory.md R42). -/
def servoRegs (sb : RegAddr) : List RegAddr := [sb, sb + 1]

theorem mem_motorPlan_writes {cfg : Config} {ch : Nat} {code : RespCode} {writes : RegAddr → List Write} {w : Write} :
    w ∈ (motorPlan cfg ch code writes).writes ↔ (1 ≤ ch ∧ ch ≤ cfg.nMotor) ∧ w ∈ writes (addrMotor ch) := by
  by_cases hv : validMotor cfg ch = true <;> simp [motorPlan, hv, ← validMotor_iff]

theorem zeroWrites_target_reg {mb : RegAddr} : ∀ w ∈ zeroWrites mb, w.target = .chip ∧ w.reg ∈ motorRegs mb := by
  simp [zeroWrites, chipWrite, motorRegs]

theorem motorPlan_write_target_reg {cfg : Config} {ch : Nat} {code : RespCode} {writes : RegAddr → List Write}
    (hwrites : ∀ w ∈ writes (addrMotor ch), w.target = .chip ∧ w.reg ∈ motorRegs (addrMotor ch)) {w : Write}
    (hw : w ∈ (motorPlan cfg ch code writes).writes) :
    (1 ≤ ch ∧ ch ≤ cfg.nMotor) ∧ w.target = .chip ∧ w.reg ∈ motorRegs (addrMotor ch) :=
  (mem_motorPlan_writes.mp hw).imp_right (hwrites w)

/-- A motor command that writes at all has a valid channel and writes the four registers of that motor only. -/
theorem motor_write_target_reg {cfg : Config} {i : Instr} {m : Nat} {w : Write} (hm : motorOf i = some m)
    (hw : w ∈ (planOf cfg i).writes) :
    (1 ≤ m ∧ m ≤ cfg.nMotor) ∧ w.target = .chip ∧ w.reg ∈ motorRegs (addrMotor m) := by
  cases i with
  | init | servo => cases hm
  | motorDirOff | motorBad | motorOff =>
    cases hm
    exact motorPlan_write_target_reg zeroWrites_target_reg hw
  | motorFwd | motorRev =>
    cases hm
    exact motorPlan_write_target_reg (by simp [chipWrite, motorRegs]) hw

/-- A SERVO command that writes at all has a valid channel and writes the two registers of that servo only. -/
theorem servo_write_target_reg {cfg : Config} {ch : Nat} {raw : Int} {w : Write}
    (hw : w ∈ (planOf cfg (.servo ch raw)).writes) :
    (1 ≤ ch ∧ ch ≤ 8) ∧ w.target = .chip ∧ w.reg ∈ servoRegs (addrServo ch) := by
  by_cases hv : 1 ≤ ch ∧ ch ≤ 8
  · refine ⟨hv, ?_⟩
    rw [planOf_servo hv.1 hv.2] at hw
    revert w
    simp [chipWrite, servoRegs]
  · rw [planOf_invalid (i := .servo ch raw) hv] at hw
    cases hw

/-- A motor's registers lie in its own two blocks of four, at the offsets 0 and 1 of each (20_memory.md R43). -/
theorem motorRegs_bounds {m : Nat} {a : RegAddr} (h1 : 1 ≤ m) (h2 : m ≤ 27) (ha : a ∈ motorRegs (addrMotor m)) :
    0x28 + 8 * (m - 1) ≤ a.toNat ∧ a.toNat < 0x28 + 8 * m ∧ a.toNat % 4 < 2 := by
  have hbase := toNat_addrMotor h1 h2
  simp only [motorRegs, List.mem_cons, List.not_mem_nil, or_false] at ha
  rcases ha with rfl | rfl | rfl | rfl <;> bv_omega

/-- A servo's registers lie in its own block of four, at the offsets 0 and 1 (20_memory.md R42). -/
theorem servoRegs_bounds {ch : Nat} {a : RegAddr} (h1 : 1 ≤ ch) (h2 : ch ≤ 8) (ha : a ∈ servoRegs (addrServo ch)) :
    0x08 + 4 * (ch - 1) ≤ a.toNat ∧ a.toNat < 0x08 + 4 * ch ∧ a.toNat % 4 < 2 := by
  have hbase := toNat_addrServo h1 h2
  simp only [servoRegs, List.mem_cons, List.not_mem_nil, or_false] at ha
  rcases ha with rfl | rfl <;> bv_omega

/-- `N_MOTOR` is at most 27, so that no motor address wraps (00_scope.md R8). -/
theorem nMotor_le_of_valid {cfg : Config} (h : cfg.valid = true) : cfg.nMotor ≤ 27 := by
  simp only [Config.valid, Bool.and_eq_true, decide_eq_true_eq] at h
  obtain ⟨⟨⟨-, hn⟩, -⟩, -⟩ := h
  exact hn

theorem exists_motorOf_or_servo {i : Instr} (h : i ≠ .init) :
    (∃ m, motorOf i = some m) ∨ ∃ ch raw, i = .servo ch raw := by
  cases i with
  | init => exact absurd rfl h
  | servo ch raw => exact .inr ⟨ch, raw, rfl⟩
  | motorDirOff ch | motorFwd ch | motorRev ch | motorBad ch | motorOff ch => exact .inl ⟨ch, rfl⟩

/-- Settles O16: the writes of a command other than INIT stand at the registers of its motor or of its servo, whose
blocks lie between 0x08 and the end of the last motor block (20_memory.md R45). -/
theorem commandsStayInsideTheirBlocks : Obligations.CommandsStayInsideTheirBlocks := by
  intro cfg i hcfg hi w hw
  obtain ⟨m, hm⟩ | ⟨ch, raw, rfl⟩ := exists_motorOf_or_servo hi
  · obtain ⟨⟨h1, h2⟩, htarget, hreg⟩ := motor_write_target_reg hm hw
    obtain ⟨hlow, hhigh, hoffset⟩ := motorRegs_bounds h1 (h2.trans (nMotor_le_of_valid hcfg)) hreg
    exact ⟨htarget, by omega, by omega, hoffset⟩
  · obtain ⟨⟨h1, h2⟩, htarget, hreg⟩ := servo_write_target_reg hw
    obtain ⟨hlow, hhigh, hoffset⟩ := servoRegs_bounds h1 h2 hreg
    exact ⟨htarget, by omega, by omega, hoffset⟩

/-! ### The register image at one edge of a command -/

/-- While Busy the register image takes the effect of the offered write once the transport answers it, and no other
(20_memory.md R44). -/
theorem exec_reg_of_busy {i : Instr} {s t : State} {w : Write} (h : exec i s = .next t) (hp : s.phase = .busy)
    (hw : (planOf s.cfg i).writes[s.widx.toNat]? = some w) :
    t.reg = if s.pins.wrReady then s.reg.apply w s.pins.answer else s.reg := by
  rw [exec_eq_runSequencer] at h
  cases hr : s.pins.wrReady
  · rw [runSequencer_busy_wait hp hw hr] at h
    cases h
    rfl
  · rw [runSequencer_busy_ready hp hw hr] at h
    cases h
    exact State.complete_reg ..

theorem exec_reg_of_not_busy {i : Instr} {s t : State} (h : exec i s = .next t) (hp : s.phase ≠ .busy) :
    t.reg = s.reg := by
  obtain ⟨-, -, -, -, -, -, hreg, -⟩ := commandRegisterFrame i s t h
  exact (hreg (.inl hp)).1

/-- Settles O31: while Busy by what the offered write does to the image, else because the image stays as it is
(20_memory.md R44, 41_commands.md R100). -/
theorem commandMemoryFrame : Obligations.CommandMemoryFrame := by
  intro i s t h
  refine ⟨fun w a hp hw hother => ?_, fun w hp hw htarget hr he => ?_, fun hp a => ?_⟩
  · rw [exec_reg_of_busy h hp hw]
    split
    · exact s.reg.read_apply_other _ fun htarget => (hother htarget).symm
    · rfl
  · have hack : s.pins.answer = .ack := by simp [Pins.answer, he]
    rw [exec_reg_of_busy h hp hw, if_pos hr, hack]
    exact s.reg.read_apply_same htarget
  · rw [exec_reg_of_not_busy h hp]

end Sys2Proof.Machine

/-! ### What the family `30_encoding.md` needs beside the laws: the command word -/

namespace Sys2Proof

/-! ### The five fields of a word (30_encoding.md R60) -/

/-- `op`, bits 31:30 (R60). -/
def opField (w : CmdWord) : BitVec 2 := w.extractLsb' 30 2

/-- `dir`, bits 29:28 (R60). -/
def dirField (w : CmdWord) : BitVec 2 := w.extractLsb' 28 2

@[simp] theorem opField_packWord (op dir : BitVec 2) (chan : BitVec 8) (val : BitVec 16) :
    opField (packWord op dir chan val) = op := by
  apply BitVec.eq_of_getLsbD_eq
  intro i hi
  simp only [opField, BitVec.getLsbD_extractLsb', getLsbD_packWord, hi, decide_true, Bool.true_and]
  rw [if_neg (by omega), if_neg (by omega), if_neg (by omega), if_neg (by omega), Nat.add_sub_cancel_left]

@[simp] theorem dirField_packWord (op dir : BitVec 2) (chan : BitVec 8) (val : BitVec 16) :
    dirField (packWord op dir chan val) = dir := by
  apply BitVec.eq_of_getLsbD_eq
  intro i hi
  simp only [dirField, BitVec.getLsbD_extractLsb', getLsbD_packWord, hi, decide_true, Bool.true_and]
  rw [if_neg (by omega), if_neg (by omega), if_neg (by omega), if_pos (by omega), Nat.add_sub_cancel_left]

section
variable (w m : CmdWord)

theorem opField_and : opField (w &&& m) = opField w &&& opField m := BitVec.extractLsb'_and
theorem dirField_and : dirField (w &&& m) = dirField w &&& dirField m := BitVec.extractLsb'_and
theorem rsvField_and : rsvField (w &&& m) = rsvField w &&& rsvField m := BitVec.extractLsb'_and
theorem chanField_and : chanField (w &&& m) = chanField w &&& chanField m := BitVec.extractLsb'_and
theorem valField_and : valField (w &&& m) = valField w &&& valField m := BitVec.extractLsb'_and

theorem toNat_opField : (opField w).toNat = w.toNat / 2 ^ 30 := by
  rw [opField, BitVec.extractLsb'_toNat, Nat.shiftRight_eq_div_pow]
  omega

theorem toNat_dirField : (dirField w).toNat = w.toNat / 2 ^ 28 % 4 := by
  rw [dirField, BitVec.extractLsb'_toNat, Nat.shiftRight_eq_div_pow]

theorem toNat_rsvField : (rsvField w).toNat = w.toNat / 2 ^ 24 % 16 := by
  rw [rsvField, BitVec.extractLsb'_toNat, Nat.shiftRight_eq_div_pow]

theorem toNat_chanField : (chanField w).toNat = w.toNat / 2 ^ 16 % 256 := by
  rw [chanField, BitVec.extractLsb'_toNat, Nat.shiftRight_eq_div_pow]

theorem toNat_valField : (valField w).toNat = w.toNat % 2 ^ 16 := by
  rw [valField, BitVec.extractLsb'_toNat, Nat.shiftRight_zero]

end

/-- The five fields make up the word (R60). -/
theorem eq_of_fields {w w' : CmdWord} (hop : opField w = opField w') (hdir : dirField w = dirField w')
    (hrsv : rsvField w = rsvField w') (hchan : chanField w = chanField w') (hval : valField w = valField w') :
    w = w' := by
  simp only [← BitVec.toNat_inj, toNat_opField, toNat_dirField, toNat_rsvField, toNat_chanField, toNat_valField]
    at hop hdir hrsv hchan hval
  exact BitVec.eq_of_toNat_eq (by omega)

theorem packWord_eq_iff {op dir : BitVec 2} {chan : BitVec 8} {val : BitVec 16} {w : CmdWord} :
    packWord op dir chan val = w ↔
      rsvField w = 0#4 ∧ opField w = op ∧ dirField w = dir ∧ chanField w = chan ∧ valField w = val := by
  constructor
  · rintro rfl
    simp
  · rintro ⟨hrsv, hop, hdir, hchan, hval⟩
    apply eq_of_fields <;> simp [*]

theorem rsvField_eq_zero_iff {w : CmdWord} : rsvField w = 0#4 ↔ w.toNat / 2 ^ 24 % 16 = 0 := by
  rw [← BitVec.toNat_inj, toNat_rsvField]
  rfl

theorem rsvField_eq_ofNat (w : CmdWord) : rsvField w = BitVec.ofNat 4 (w.toNat / 2 ^ 24) := by
  apply BitVec.eq_of_toNat_eq
  rw [toNat_rsvField, BitVec.toNat_ofNat]

/-! ### The form a word selects (R61, R62, R64) -/

/-- The codes of `op` and `dir` that stand for a form (R61, R62); a form that ignores `dir` takes any. -/
def Form.HasCodes (op dir : BitVec 2) : Form → Prop
  | .init        => op = 0b00#2
  | .motorDirOff => op = 0b01#2 ∧ dir = 0b00#2
  | .motorFwd    => op = 0b01#2 ∧ dir = 0b01#2
  | .motorRev    => op = 0b01#2 ∧ dir = 0b10#2
  | .motorBad    => op = 0b01#2 ∧ dir = 0b11#2
  | .servo       => op = 0b10#2
  | .motorOff    => op = 0b11#2

/-- The table gives the packed words of each `op` and `dir` the form with these codes. -/
theorem selectForm_packWord_iff_hasCodes (op dir : BitVec 2) (f : Form) :
    selectForm (packWord op dir 0#8 0#16) = some f ↔ f.HasCodes op dir := by
  cases f <;> simp only [Form.HasCodes] <;> decide +revert

theorem exists_form_hasCodes (op dir : BitVec 2) : ∃ f : Form, f.HasCodes op dir := by
  have h : (selectForm (packWord op dir 0#8 0#16)).isSome = true := by decide +revert
  obtain ⟨f, hf⟩ := Option.isSome_iff_exists.mp h
  exact ⟨f, (selectForm_packWord_iff_hasCodes op dir f).mp hf⟩

theorem exists_selectForm_iff {w : CmdWord} :
    (∃ f, selectForm w = some f) ↔ ∃ r ∈ formTable, w &&& r.mask = r.bits := by
  rw [← Option.isSome_iff_exists, selectForm, Option.isSome_map, List.find?_isSome]
  simp only [FormRow.selects, beq_iff_eq]

/-- The rows a word meets are one row: two different ones want different values of a bit that both examine (R64). -/
theorem row_unique {w : CmdWord} {r r' : FormRow} (hr : r ∈ formTable) (hr' : r' ∈ formTable)
    (h : w &&& r.mask = r.bits) (h' : w &&& r'.mask = r'.bits) : r = r' := by
  by_contra hne
  have hsymm : Std.Symm fun a b : FormRow => a.bits &&& (a.mask &&& b.mask) ≠ b.bits &&& (a.mask &&& b.mask) :=
    ⟨fun a b hab => by rw [BitVec.and_comm b.mask]; exact hab.symm⟩
  refine formTable_pairwise_disjoint.forall hr hr' hne ?_
  rw [← h, ← h']
  ac_rfl

/-- Every row wants the reserved bits 0 (R65). -/
theorem rsvField_eq_zero_of_row {w : CmdWord} {r : FormRow} (hr : r ∈ formTable) (h : w &&& r.mask = r.bits) :
    rsvField w = 0#4 := by
  obtain ⟨hmask, hbits⟩ := formTable_reserved r hr
  have hw : w &&& 0x0F000000#32 = 0#32 :=
    calc w &&& 0x0F000000#32 = (w &&& r.mask) &&& 0x0F000000#32 := by rw [BitVec.and_assoc, hmask]
      _ = 0#32 := by rw [h, hbits]
  calc rsvField w = rsvField (w &&& 0x0F000000#32) := by rw [rsvField_and]; exact BitVec.and_allOnes.symm
    _ = 0#4 := by rw [hw]; rfl

/-- A word selects a form exactly when its reserved bits are 0 and `op` and `dir` are that form's codes. -/
theorem selectForm_eq_some_iff {w : CmdWord} {f : Form} :
    selectForm w = some f ↔ rsvField w = 0#4 ∧ f.HasCodes (opField w) (dirField w) := by
  have hpacked (hrsv : rsvField w = 0#4) :
      selectForm w = selectForm (packWord (opField w) (dirField w) 0#8 0#16) := by
    rw [← selectForm_packWord _ _ (chanField w) (valField w),
      packWord_eq_iff.mpr ⟨hrsv, rfl, rfl, rfl, rfl⟩]
  constructor
  · intro h
    obtain ⟨r, hr, hsel⟩ := exists_selectForm_iff.mp ⟨f, h⟩
    have hrsv := rsvField_eq_zero_of_row hr hsel
    exact ⟨hrsv, (selectForm_packWord_iff_hasCodes _ _ f).mp (hpacked hrsv ▸ h)⟩
  · rintro ⟨hrsv, hcodes⟩
    exact (hpacked hrsv).trans ((selectForm_packWord_iff_hasCodes _ _ f).mpr hcodes)

theorem exists_selectForm_iff_rsvField {w : CmdWord} : (∃ f, selectForm w = some f) ↔ rsvField w = 0#4 := by
  simp only [selectForm_eq_some_iff, exists_and_left, exists_form_hasCodes, and_true]

/-! ### The decoder and the encoder -/

theorem decode_of_selectForm {w : CmdWord} {f : Form} (h : selectForm w = some f) :
    decode w = .ok (buildInstr w f) := by simp [decode, h]

theorem decode_of_rsvField_ne_zero {w : CmdWord} (h : rsvField w ≠ 0#4) :
    decode w = .error (.reservedBitsSet (rsvField w)) := by
  have hnone : selectForm w = none :=
    Option.eq_none_iff_forall_ne_some.mpr fun f hf => h (exists_selectForm_iff_rsvField.mp ⟨f, hf⟩)
  simp [decode, hnone]

theorem decode_eq_ok_iff_selectForm {w : CmdWord} {i : Instr} :
    decode w = .ok i ↔ ∃ f, selectForm w = some f ∧ buildInstr w f = i := by
  cases h : selectForm w <;> simp [decode, h]

@[simp] theorem channelFits_chOf (w : CmdWord) : channelFits (chOf w) = true :=
  decide_eq_true (Nat.le_of_lt_succ (chanField w).isLt)

@[simp] theorem rawFits_rawOf (w : CmdWord) : rawFits (rawOf w) = true :=
  Bool.and_eq_true_iff.mpr
    ⟨decide_eq_true (valField w).le_toInt, decide_eq_true (Int.le_sub_one_of_lt (valField w).toInt_lt)⟩

/-- The fields of a word fit their operands, so every instruction the decoder builds is well formed (R63). -/
theorem wellFormed_buildInstr (w : CmdWord) (f : Form) : (buildInstr w f).wellFormed = true := by
  cases f <;> simp [buildInstr, Instr.wellFormed]

theorem chanBits_eq_iff {ch : Nat} {w : CmdWord} (h : channelFits ch = true) :
    chanField w = chanBits ch ↔ chOf w = ch := by
  rw [chOf, ← BitVec.toNat_inj, toNat_chanBits h]

theorem valBits_eq_iff {raw : Int} {w : CmdWord} (h : rawFits raw = true) :
    valField w = valBits raw ↔ rawOf w = raw := by
  rw [rawOf, ← BitVec.toInt_inj, toInt_valBits h]

/-! ### The bits a form examines (R64, R66) -/

theorem opField_examinedBits (i : Instr) : opField (examinedBits i) = BitVec.allOnes 2 := by
  cases i <;> simp only [examinedBits] <;> decide

theorem rsvField_examinedBits (i : Instr) : rsvField (examinedBits i) = BitVec.allOnes 4 := by
  cases i <;> simp only [examinedBits] <;> decide

/-- `dir` counts in a MOTOR word only (R62). -/
theorem dirField_examinedBits (i : Instr) : dirField (examinedBits i) =
    match i with
    | .init | .servo _ _ | .motorOff _ => 0#2
    | .motorDirOff _ | .motorFwd _ _ | .motorRev _ _ | .motorBad _ => BitVec.allOnes 2 := by
  cases i <;> simp only [examinedBits] <;> decide

/-- `chan` counts in every word but INIT's. -/
theorem chanField_examinedBits (i : Instr) : chanField (examinedBits i) =
    match i with
    | .init => 0#8
    | .motorDirOff _ | .motorFwd _ _ | .motorRev _ _ | .motorBad _ | .servo _ _ | .motorOff _ => BitVec.allOnes 8 := by
  cases i <;> simp only [examinedBits] <;> decide

/-- `val` counts where the form has a speed or an angle. -/
theorem valField_examinedBits (i : Instr) : valField (examinedBits i) =
    match i with
    | .init | .motorDirOff _ | .motorBad _ | .motorOff _ => 0#16
    | .motorFwd _ _ | .motorRev _ _ | .servo _ _ => BitVec.allOnes 16 := by
  cases i <;> simp only [examinedBits] <;> decide

/-! ### A word decodes to `i` exactly when its examined bits are `i`'s canonical word (R66, R72) -/

open Laws (formOf)

@[simp] theorem formOf_buildInstr (w : CmdWord) (f : Form) : formOf (buildInstr w f) = f := by
  cases f <;> rfl

/-- Field by field, the examined bits of a word are the canonical word of `i` exactly when the decoder finds `i`'s form
and operands in it. -/
theorem encode_eq_and_examinedBits_iff {w : CmdWord} {i : Instr} (hi : i.wellFormed = true) :
    encode i = w &&& examinedBits i ↔ selectForm w = some (formOf i) ∧ buildInstr w (formOf i) = i := by
  cases i <;> simp only [Instr.wellFormed, Bool.and_eq_true] at hi <;>
    simp [encode, packWord_eq_iff, opField_and, dirField_and, rsvField_and, chanField_and, valField_and,
      opField_examinedBits, dirField_examinedBits, rsvField_examinedBits, chanField_examinedBits, valField_examinedBits,
      selectForm_eq_some_iff, formOf, Form.HasCodes, buildInstr, chanBits_eq_iff, valBits_eq_iff, hi, and_assoc,
      -BitVec.reduceAllOnes]

theorem decode_eq_ok_iff {w : CmdWord} {i : Instr} :
    decode w = .ok i ↔ i.wellFormed = true ∧ encode i = w &&& examinedBits i := by
  rw [decode_eq_ok_iff_selectForm]
  constructor
  · rintro ⟨f, hf, rfl⟩
    have hwf := wellFormed_buildInstr w f
    exact ⟨hwf, (encode_eq_and_examinedBits_iff hwf).mpr (by simp [hf])⟩
  · rintro ⟨hwf, henc⟩
    exact ⟨formOf i, (encode_eq_and_examinedBits_iff hwf).mp henc⟩

/-! ### The canonical word (R72) -/

theorem selectForm_encode (i : Instr) : selectForm (encode i) = some (formOf i) :=
  match i with
  | .init             => Laws.SelectsItsForm.init
  | .motorDirOff ch   => Laws.SelectsItsForm.motorDirOff ch
  | .motorFwd ch raw  => Laws.SelectsItsForm.motorFwd ch raw
  | .motorRev ch raw  => Laws.SelectsItsForm.motorRev ch raw
  | .motorBad ch      => Laws.SelectsItsForm.motorBad ch
  | .servo ch raw     => Laws.SelectsItsForm.servo ch raw
  | .motorOff ch      => Laws.SelectsItsForm.motorOff ch

theorem chOf_packWord (op dir : BitVec 2) (val : BitVec 16) {ch : Nat} (h : channelFits ch = true) :
    chOf (packWord op dir (chanBits ch) val) = ch := by
  rw [chOf, chanField_packWord, toNat_chanBits h]

theorem rawOf_packWord (op dir : BitVec 2) (chan : BitVec 8) {raw : Int} (h : rawFits raw = true) :
    rawOf (packWord op dir chan (valBits raw)) = raw := by
  rw [rawOf, valField_packWord, toInt_valBits h]

/-- The operands stand in the canonical word as they are, if they fit their fields. -/
theorem buildInstr_encode {i : Instr} (hi : i.wellFormed = true) : buildInstr (encode i) (formOf i) = i := by
  cases i with
  | init => rfl
  | motorDirOff | motorBad | motorOff =>
    simp only [Instr.wellFormed] at hi
    simp [encode, formOf, buildInstr, chOf_packWord, hi]
  | motorFwd | motorRev | servo =>
    simp only [Instr.wellFormed, Bool.and_eq_true] at hi
    simp [encode, formOf, buildInstr, chOf_packWord, rawOf_packWord, hi]

/-! ### The operands and the form, with the fields as numbers (R60, R63) -/

theorem chOf_eq (w : CmdWord) : chOf w = w.toNat / 2 ^ 16 % 256 := toNat_chanField w

theorem rawOf_eq (w : CmdWord) : rawOf w =
    if w.toNat % 2 ^ 16 < 2 ^ 15 then ((w.toNat % 2 ^ 16 : Nat) : Int) else (w.toNat % 2 ^ 16 : Nat) - 2 ^ 16 := by
  rw [rawOf, BitVec.toInt_eq_toNat_cond, toNat_valField]
  congr 1
  exact propext (by omega)

theorem decode_of_codes {w : CmdWord} {f : Form} (hrsv : w.toNat / 2 ^ 24 % 16 = 0)
    (hcodes : f.HasCodes (opField w) (dirField w)) : decode w = .ok (buildInstr w f) :=
  decode_of_selectForm (selectForm_eq_some_iff.mpr ⟨rsvField_eq_zero_iff.mpr hrsv, hcodes⟩)

theorem opField_eq_ofNat {w : CmdWord} {n : Nat} (h : w.toNat / 2 ^ 30 = n) : opField w = BitVec.ofNat 2 n := by
  rw [← h, ← toNat_opField, BitVec.ofNat_toNat, BitVec.setWidth_eq]

theorem dirField_eq_ofNat {w : CmdWord} {n : Nat} (h : w.toNat / 2 ^ 28 % 4 = n) : dirField w = BitVec.ofNat 2 n := by
  rw [← h, ← toNat_dirField, BitVec.ofNat_toNat, BitVec.setWidth_eq]

/-- The top byte `n` holds `op`, `dir` and `rsv` (R60). -/
theorem decode_of_top_byte {w : CmdWord} {f : Form} {n : Nat} (h : w.toNat / 2 ^ 24 = n) (hrsv : n % 16 = 0)
    (hcodes : f.HasCodes (BitVec.ofNat 2 (n / 64)) (BitVec.ofNat 2 (n / 16 % 4))) :
    decode w = .ok (buildInstr w f) := by
  rw [← opField_eq_ofNat (w := w) (by omega), ← dirField_eq_ofNat (w := w) (by omega)] at hcodes
  exact decode_of_codes (by omega) hcodes

/-! ### The obligations on the encoding -/

/-- Settles O1: the canonical word selects the instruction's own form, and its fields carry the operands (R72). -/
theorem decodeEncodeRoundTrip : Obligations.DecodeEncodeRoundTrip := by
  intro i hi
  rw [decode_of_selectForm (selectForm_encode i), buildInstr_encode hi]

/-- Settles O2, the forward direction of `decode_eq_ok_iff`. -/
theorem encodeDecodeIsCanonicalWord : Obligations.EncodeDecodeIsCanonicalWord :=
  fun _ _ => decode_eq_ok_iff.mp

/-- Settles O3: two rows of one word are the same row, and the words of some row are those the table gives a form. -/
theorem formsDisjointAndCoverReservedZero : Obligations.FormsDisjointAndCoverReservedZero := by
  intro w
  refine ⟨fun r hr r' hr' => row_unique hr hr', ?_⟩
  rw [← exists_selectForm_iff, exists_selectForm_iff_rsvField, rsvField_eq_zero_iff]

/-- Settles O4: a word has a form exactly when its reserved bits are 0 (R65, R70). -/
theorem decoderTotalAndRejectsOnlyReservedBits : Obligations.DecoderTotalAndRejectsOnlyReservedBits := by
  intro w
  refine ⟨fun h => ?_, fun h => ?_⟩
  · obtain ⟨f, hf⟩ := exists_selectForm_iff_rsvField.mpr (rsvField_eq_zero_iff.mpr h)
    exact ⟨_, decode_of_selectForm hf, wellFormed_buildInstr w f⟩
  · rw [decode_of_rsvField_ne_zero (mt rsvField_eq_zero_iff.mp h), rsvField_eq_ofNat]

/-- Settles O5: the word with its ignored bits 0 fixes the instruction (`decode_eq_ok_iff`), and the instruction fixes
the plan. -/
theorem ignoredFieldsDoNotMatter : Obligations.IgnoredFieldsDoNotMatter := by
  intro w w' i h hagree
  obtain ⟨hwf, henc⟩ := decode_eq_ok_iff.mp h
  have henc' : encode i = w' &&& examinedBits i := henc.trans hagree.symm
  have h' : decode w' = .ok i := decode_eq_ok_iff.mpr ⟨hwf, henc'⟩
  exact ⟨h', fun cfg => by rw [Machine.planOfWord_ok h, Machine.planOfWord_ok h'], henc'⟩

/-- Settles O6: the top bits give the codes of the form, and the operands are the fields `chan` and `val` as numbers
(R61, R62, R63). -/
theorem operandsAreChanAndSignedVal : Obligations.OperandsAreChanAndSignedVal := by
  intro w
  rw [← chOf_eq, ← rawOf_eq]
  exact ⟨
    fun h => decode_of_top_byte (f := .motorFwd) h rfl ⟨rfl, rfl⟩,
    fun h => decode_of_top_byte (f := .motorRev) h rfl ⟨rfl, rfl⟩,
    fun h => decode_of_top_byte (f := .motorDirOff) h rfl ⟨rfl, rfl⟩,
    fun h => decode_of_top_byte (f := .motorBad) h rfl ⟨rfl, rfl⟩,
    fun hrsv hop => decode_of_codes (f := .init) (by omega) (opField_eq_ofNat hop),
    fun hrsv hop => decode_of_codes (f := .servo) (by omega) (opField_eq_ofNat hop),
    fun hrsv hop => decode_of_codes (f := .motorOff) (by omega) (opField_eq_ofNat hop)⟩

/-- Settles O7, by running the decoder on each word. -/
theorem sampleWordsDecode : Obligations.SampleWordsDecode := by
  unfold Obligations.SampleWordsDecode
  decide

end Sys2Proof

/-! ### What the family `30_encoding.md` needs beside the laws: the handshakes -/

namespace Sys2Proof.Machine

/-! ### A write to offer (10_state.md R23) -/

theorem State.Inv.exists_write_of_busy {s : State} (hi : s.Inv) (hp : s.phase = .busy) :
    ∃ w, s.plan.writes[s.widx.toNat]? = some w :=
  ⟨_, List.getElem?_eq_getElem (hi.busy hp).widx⟩

theorem commandInForce_in_flight {s : State} (hp : s.phase ≠ .idle) : s.commandInForce = some s.cmdr := by
  match hphase : s.phase with
  | .idle => exact absurd hphase hp
  | .busy => exact commandInForce_busy hphase
  | .resp => exact commandInForce_resp hphase

/-- While a command is in flight an edge is the sequencer's for that command. -/
theorem step_in_flight {s : State} (hrst : s.pins.rst = false) (hp : s.phase ≠ .idle) :
    step s = thenNext State.endEdge (runSequencer s.plan s) :=
  step_word hrst (commandInForce_in_flight hp)

/-! ### The obligations on the ports -/

/-- No valid and ready pair at an edge (30_encoding.md R74). -/
theorem step_no_transfer {s : State} (hi : s.Inv) (hrst : s.pins.rst = false)
    (h : s.phase = .idle ∧ s.pins.cmdValid = false ∨ s.phase = .busy ∧ s.pins.wrReady = false ∨
      s.phase = .resp ∧ s.pins.rspReady = false) : step s = .next s.endEdge := by
  rcases h with ⟨hp, hv⟩ | ⟨hp, hr⟩ | ⟨hp, hr⟩
  · exact step_quiet hrst (commandInForce_quiet hp hv)
  · obtain ⟨w, hw⟩ := hi.exists_write_of_busy hp
    rw [step_in_flight hrst (by simp [hp]), runSequencer_busy_wait hp hw hr, thenNext_next]
  · rw [step_in_flight hrst (by simp [hp]), runSequencer_resp_wait hp hr, thenNext_next]

/-- Settles O37: the step only ends the edge, and no output pin looks at the pins or the counter. -/
theorem noTransferHoldsThePorts : Obligations.NoTransferHoldsThePorts :=
  fun _ hi hrst h => ⟨step_no_transfer hi hrst h, rfl⟩

theorem Target.bit_eq (t : Target) : t.bit = if t = .chip then 0#1 else 1#1 := by
  cases t <;> rfl

/-- Settles O38: the valid and ready pins are tests of the phase, and while Busy the invariant gives the offered
write. -/
theorem portsFollowThePhase : Obligations.PortsFollowThePhase := by
  intro s i hi
  refine ⟨beq_iff_eq, beq_iff_eq, beq_iff_eq, rfl, fun hp hd => ?_, fun hp => if_pos hp⟩
  obtain ⟨w, hw⟩ := hi.exists_write_of_busy hp
  refine ⟨w, planOfWord_ok hd ▸ hw, ?_⟩
  rw [State.outputs, State.offeredWrite_of_busy hp, hw, Option.map_some, Target.bit_eq]

/-! ### The command port while a command is in flight -/

/-- The same state with other pins to come. -/
def State.withInbox (s : State) (inbox : List Pins) : State := { s with inbox := inbox }

theorem State.withInbox_endEdge {s : State} {inbox : List Pins} (h : inbox.tail = s.inbox.tail) :
    (s.withInbox inbox).endEdge = s.endEdge := by
  simp [State.withInbox, State.endEdge, h]

theorem State.withInbox_advance (s : State) (inbox : List Pins) (p : Plan) :
    (s.withInbox inbox).advance p = (s.advance p).withInbox inbox := by
  by_cases hl : s.widx.toNat + 1 = p.writes.length
  · rw [State.advance_last hl, State.advance_last (s := s.withInbox inbox) hl]; rfl
  · rw [State.advance_more hl, State.advance_more (s := s.withInbox inbox) hl]; rfl

theorem State.withInbox_complete (s : State) (inbox : List Pins) (w : Write) (a : Answer) (p : Plan) :
    (s.withInbox inbox).complete w a p = (s.complete w a p).withInbox inbox := by
  cases a with
  | ack => exact (s.regWrite w .ack).withInbox_advance inbox p
  | err => rfl

/-- While a command is in flight the sequencer looks at the write port's and the response port's pins only. -/
theorem runSequencer_withInbox {p : Plan} {s : State} {inbox : List Pins} {v : Bool} {c : CmdWord}
    (hp : s.phase ≠ .idle) (htail : inbox.tail = s.inbox.tail)
    (hpins : (s.withInbox inbox).pins = { s.pins with cmdValid := v, cmd := c }) :
    thenNext State.endEdge (runSequencer p (s.withInbox inbox)) = thenNext State.endEdge (runSequencer p s) := by
  have hready : (s.withInbox inbox).pins.wrReady = s.pins.wrReady := by rw [hpins]
  have hanswer : (s.withInbox inbox).pins.answer = s.pins.answer := by rw [hpins]; rfl
  have htake : (s.withInbox inbox).pins.rspReady = s.pins.rspReady := by rw [hpins]
  match hphase : s.phase with
  | .idle => exact absurd hphase hp
  | .busy =>
    have hphase' : (s.withInbox inbox).phase = .busy := hphase
    match hw : p.writes[s.widx.toNat]? with
    | none =>
      have hw' : p.writes[(s.withInbox inbox).widx.toNat]? = none := hw
      rw [runSequencer_busy_none hphase hw, runSequencer_busy_none hphase' hw']
    | some w =>
      have hw' : p.writes[(s.withInbox inbox).widx.toNat]? = some w := hw
      cases hr : s.pins.wrReady
      · rw [runSequencer_busy_wait hphase hw hr, runSequencer_busy_wait hphase' hw' (hready.trans hr),
          thenNext_next, thenNext_next, State.withInbox_endEdge htail]
      · rw [runSequencer_busy_ready hphase hw hr, runSequencer_busy_ready hphase' hw' (hready.trans hr), hanswer,
          State.withInbox_complete, thenNext_next, thenNext_next, State.withInbox_endEdge (by simpa using htail)]
  | .resp =>
    have hphase' : (s.withInbox inbox).phase = .resp := hphase
    cases hr : s.pins.rspReady
    · rw [runSequencer_resp_wait hphase hr, runSequencer_resp_wait hphase' (htake.trans hr),
        thenNext_next, thenNext_next, State.withInbox_endEdge htail]
    · rw [runSequencer_resp_take hphase hr, runSequencer_resp_take hphase' (htake.trans hr),
        thenNext_next, thenNext_next, ← State.withInbox_endEdge (s := s.deliver) htail]
      rfl

/-- In flight the word in force is `CMDR`, and neither a reset edge nor the sequencer looks at the command port. -/
theorem step_withInbox {s : State} {inbox : List Pins} {v : Bool} {c : CmdWord} (hp : s.phase ≠ .idle)
    (htail : inbox.tail = s.inbox.tail)
    (hpins : (s.withInbox inbox).pins = { s.pins with cmdValid := v, cmd := c }) :
    step (s.withInbox inbox) = step s := by
  have hsame : (s.withInbox inbox).pins.rst = s.pins.rst := by rw [hpins]
  cases hrst : s.pins.rst
  · rw [step_in_flight hrst hp, step_in_flight (hsame.trans hrst) hp]
    exact runSequencer_withInbox hp htail hpins
  · rw [step_rst hrst, step_rst (hsame.trans hrst), ← State.withInbox_endEdge (s := s.resetEdge) htail]
    rfl

/-- Settles O39 (30_encoding.md R74, 10_state.md R21), by `step_withInbox`. -/
theorem commandPortIgnoredInFlight : Obligations.CommandPortIgnoredInFlight := by
  intro s p rest v c hp hinbox
  exact step_withInbox (v := v) (c := c) hp (by rw [hinbox]; rfl) (by simp only [State.pins, hinbox, State.withInbox])

/-! ### A step keeps the invariant -/

theorem Plan.standsIn_zero (p : Plan) (m : Memory) : p.standsIn 0 m := nofun

/-- A plan that names no register twice names another one in each earlier write (20_memory.md R49). -/
theorem Plan.reg_ne_of_mem_take {p : Plan} {k : Nat} {w w' : Write} (hn : p.regs.Nodup) (hw : p.writes[k]? = some w)
    (hw' : w' ∈ p.writes.take k) (ht : w.target = .chip) (ht' : w'.target = .chip) : w'.reg ≠ w.reg := by
  have hsub : (((p.writes.take (k + 1)).filter fun w => w.target == .chip).map (·.reg)).Nodup :=
    hn.sublist (((List.take_sublist _ _).filter _).map _)
  rw [List.take_add_one, hw, Option.toList_some, List.filter_append, List.map_append, List.nodup_append] at hsub
  obtain ⟨-, -, hne⟩ := hsub
  exact hne _ (List.mem_map_of_mem (List.mem_filter.mpr ⟨hw', by simp [ht']⟩)) _ (by simp [ht])

/-- An acknowledged write stands in the image beside those before it. -/
theorem Plan.standsIn_succ {p : Plan} {k : Nat} {w : Write} {m : Memory} (hn : p.regs.Nodup)
    (hw : p.writes[k]? = some w) (hm : p.standsIn k m) : p.standsIn (k + 1) (m.apply w .ack) := by
  intro w' hw' ht'
  rw [List.take_add_one, hw, Option.toList_some, List.mem_append, List.mem_singleton] at hw'
  rcases hw' with hw' | rfl
  · rw [m.read_apply_other .ack fun ht h => p.reg_ne_of_mem_take hn hw hw' ht ht' (BitVec.eq_of_toNat_eq h).symm]
    exact hm w' hw' ht'
  · exact m.read_apply_same ht'

/-- The first `k` writes of the command in `CMDR` were the last ones sent, acknowledged, with no reset between them, and
stand in `REG`: what `State.BusyInv` and `State.DoneInv` say alike. -/
structure State.Sent (s : State) (k : Nat) : Prop where
  log   : s.plan.acked k <:+ s.wlog
  cuts  : ∀ c ∈ s.withdrawn, c.sent + k ≤ s.wlog.length
  image : s.plan.regs.Nodup → s.plan.standsIn k s.reg

theorem State.BusyInv.sent {s : State} (h : s.BusyInv) : s.Sent s.widx.toNat := ⟨h.log, h.cuts, h.image⟩

theorem State.Sent.busyInv {s : State} (h : s.Sent s.widx.toNat) (hw : s.widx.toNat < s.plan.writes.length) :
    s.BusyInv := ⟨hw, h.log, h.cuts, h.image⟩

theorem State.Sent.doneInv {s : State} (h : s.Sent s.widx.toNat) (hw : s.widx.toNat = s.plan.writes.length)
    (hrsp : s.rsp = packRsp s.plan.code s.plan.ovf) : s.DoneInv :=
  ⟨hrsp, hw, hw ▸ h.log, hw ▸ h.cuts, hw ▸ h.image⟩

theorem State.sent_zero {s : State} (hcuts : ∀ c ∈ s.withdrawn, c.sent ≤ s.wlog.length) : s.Sent 0 :=
  ⟨List.nil_suffix, hcuts, fun _ => s.plan.standsIn_zero _⟩

theorem State.Sent.regWrite {s : State} {k : Nat} {w : Write} (h : s.Sent k) (hw : s.plan.writes[k]? = some w) :
    (s.regWrite w .ack).Sent (k + 1) where
  log := by
    change s.plan.acked (k + 1) <:+ s.wlog ++ [⟨w, .ack⟩]
    rw [Plan.acked_succ hw]
    exact h.log.imp fun before hlog => by rw [← hlog, List.append_assoc]
  cuts c hc := by
    have hle := h.cuts c hc
    simp only [State.regWrite_wlog, List.length_append, List.length_singleton]
    omega
  image hn := Plan.standsIn_succ hn hw (h.image hn)

/-- Acceptance: no write is sent yet, and an empty list is done at once (41_commands.md R100). -/
theorem State.Inv.accept {s : State} (hi : s.Inv) (c : CmdWord) : (s.accept c (planOfWord s.cfg c)).Inv := by
  by_cases hw : (planOfWord s.cfg c).writes = []
  · rw [State.accept_empty hw]
    refine ⟨hi.cfg, hi.reg, hi.cuts, nofun, fun _ => .inl ?_⟩
    exact (State.sent_zero (s := (s.latch c).respond _ _) hi.cuts).doneInv (List.length_eq_zero_iff.mpr hw).symm rfl
  · rw [State.accept_nonempty hw]
    refine ⟨hi.cfg, hi.reg, hi.cuts, fun _ => ?_, nofun⟩
    exact (State.sent_zero (s := { s.latch c with phase := .busy }) hi.cuts).busyInv (List.length_pos_iff.mpr hw)

theorem State.Inv.cuts_regWrite {s : State} (hi : s.Inv) (w : Write) (a : Answer) :
    ∀ c ∈ s.withdrawn, c.sent ≤ (s.regWrite w a).wlog.length := fun c hc => by
  have hle := hi.cuts c hc
  rw [State.regWrite_wlog, List.length_append]
  omega

/-- An acknowledged write: the command is done if it was the last, else it goes on with the next (R100). -/
theorem State.Inv.ack {s : State} {w : Write} (hi : s.Inv) (hp : s.phase = .busy)
    (hw : s.plan.writes[s.widx.toNat]? = some w) : ((s.regWrite w .ack).advance s.plan).Inv := by
  have hreg : (s.reg.apply w .ack).wf = true := Memory.wf_apply hi.reg w .ack
  have hsent : (s.regWrite w .ack).Sent (s.widx.toNat + 1) := (hi.busy hp).sent.regWrite hw
  have hnext : (s.widx + 1#3).toNat = s.widx.toNat + 1 := toNat_widx_add_one (hi.widx_lt_of_busy hp)
  have hlt : s.widx.toNat < s.plan.writes.length := (hi.busy hp).widx
  rw [← hnext] at hsent
  by_cases hl : s.widx.toNat + 1 = s.plan.writes.length
  · rw [State.advance_last (s := s.regWrite w .ack) hl]
    refine ⟨hi.cfg, hreg, hi.cuts_regWrite w .ack, nofun, fun _ => .inl ?_⟩
    exact State.Sent.doneInv ⟨hsent.log, hsent.cuts, hsent.image⟩ (hnext.trans hl) rfl
  · rw [State.advance_more (s := s.regWrite w .ack) hl]
    have hbusy : (s.regWrite w .ack).bump.phase ≠ .resp := by simp [hp]
    refine ⟨hi.cfg, hreg, hi.cuts_regWrite w .ack, fun _ => ?_, fun h => absurd h hbusy⟩
    exact State.Sent.busyInv ⟨hsent.log, hsent.cuts, hsent.image⟩ (hnext.trans_lt (Nat.lt_of_le_of_ne hlt hl))

/-- A failed write: TransportError, with the log ending in that write (60_exceptions.md R124). -/
theorem State.Inv.err {s : State} {w : Write} (hi : s.Inv) (hp : s.phase = .busy)
    (hw : s.plan.writes[s.widx.toNat]? = some w) : ((s.regWrite w .err).respond .transportError false).Inv where
  cfg  := hi.cfg
  reg  := Memory.wf_apply hi.reg w .err
  cuts := hi.cuts_regWrite w .err
  busy := nofun
  resp _ := .inr ⟨rfl, w, hw, (hi.busy hp).log.imp fun before hlog => by
    rw [State.respond_wlog, State.regWrite_wlog, ← hlog, List.append_assoc]; rfl⟩

/-- A reset edge: Idle, and what it withdraws it withdraws after the whole log (70_reset_and_hazards.md R141). -/
theorem State.Inv.resetEdge {s : State} (hi : s.Inv) : s.resetEdge.Inv where
  cfg  := hi.cfg
  reg  := Memory.wf_withdraw hi.reg _ _
  cuts c hc := by
    simp only [State.resetEdge_withdrawn, List.mem_append, Option.mem_toList, Option.map_eq_some_iff] at hc
    obtain hc | ⟨w, -, rfl⟩ := hc
    · exact hi.cuts c hc
    · exact Nat.le_refl _
  busy := nofun
  resp := nofun

theorem State.Inv.deliver {s : State} (hi : s.Inv) : s.deliver.Inv := ⟨hi.cfg, hi.reg, hi.cuts, nofun, nofun⟩

theorem State.BusyInv.endEdge {s : State} (h : s.BusyInv) : s.endEdge.BusyInv := ⟨h.widx, h.log, h.cuts, h.image⟩

theorem State.DoneInv.endEdge {s : State} (h : s.DoneInv) : s.endEdge.DoneInv :=
  ⟨h.rsp, h.widx, h.log, h.cuts, h.image⟩

theorem State.FailedInv.endEdge {s : State} (h : s.FailedInv) : s.endEdge.FailedInv := ⟨h.rsp, h.log⟩

/-- The invariant does not speak of the pins and the counter. -/
theorem State.Inv.endEdge {s : State} (hi : s.Inv) : s.endEdge.Inv :=
  ⟨hi.cfg, hi.reg, hi.cuts, fun hp => (hi.busy hp).endEdge, fun hp => (hi.resp hp).imp (·.endEdge) (·.endEdge)⟩

/-- Every step keeps the invariant, case by case of what a step can do. -/
theorem step_keeps_inv {s t : State} (hi : s.Inv) (h : step s = .next t) : t.Inv := by
  cases step_next_cases h with
  | rst => exact hi.resetEdge.endEdge
  | accept => exact (hi.accept _).endEdge
  | hold => exact hi.endEdge
  | ack w _ hp hw => exact (hi.ack hp hw).endEdge
  | err w _ hp hw => exact (hi.err hp hw).endEdge
  | deliver => exact hi.deliver.endEdge

/-! ### A step completes -/

/-- From a state with the invariant a step answers a next state (30_encoding.md R70): an illegal word is a command like
any other, and while Busy there is a write to offer. -/
theorem step_completes {s : State} (hi : s.Inv) : ∃ t, step s = .next t := by
  cases hrst : s.pins.rst
  · match hc : s.commandInForce with
    | none => exact ⟨_, step_quiet hrst hc⟩
    | some w =>
      have hwrite (hp : s.phase = .busy) : s.widx.toNat < (planOfWord s.cfg w).writes.length := by
        rw [commandInForce_busy hp] at hc
        cases hc
        exact (hi.busy hp).widx
      obtain ⟨t, ht⟩ := runSequencer_completes hwrite
      exact ⟨t.endEdge, by rw [step_word hrst hc, ht, thenNext_next]⟩
  · exact ⟨_, step_rst hrst⟩

theorem core_run_succ {n : Nat} {s t : State} (h : step s = .next t) :
    Host.Core.run Sys2Proof.core (n + 1) s = Host.Core.run Sys2Proof.core n t := by
  have hcore : Sys2Proof.core.step s = .next t := h
  simp only [Host.Core.run, hcore]

/-- Settles O51, by induction on the number of steps: each completes and keeps the invariant. -/
theorem runsNeverStop : Obligations.RunsNeverStop := by
  intro n
  induction n with
  | zero => exact fun s hi => ⟨s, rfl, hi⟩
  | succ n ih =>
    intro s hi
    obtain ⟨t, ht⟩ := step_completes hi
    obtain ⟨u, hrun, hu⟩ := ih t (step_keeps_inv hi ht)
    exact ⟨u, (core_run_succ ht).trans hrun, hu⟩

/-! ### The response record (30_encoding.md R68) -/

@[simp] theorem rspCode_packRsp (code : RespCode) (ovf : Bool) : rspCode (packRsp code ovf) = code.bits := by
  cases code <;> cases ovf <;> rfl

@[simp] theorem rspOvf_packRsp (code : RespCode) (ovf : Bool) : rspOvf (packRsp code ovf) = BitVec.ofBool ovf := by
  cases code <;> cases ovf <;> rfl

theorem RespCode.toNat_bits_le (code : RespCode) : code.bits.toNat ≤ 4 := by
  cases code <;> decide

theorem motorPlan_ovf (cfg : Config) (ch : Nat) (code : RespCode) (writes : RegAddr → List Write) :
    (motorPlan cfg ch code writes).ovf = false := by
  unfold motorPlan
  split <;> rfl

/-- Only SERVO has a range flag (40_datapath.md R88). -/
theorem exists_servo_of_ovf {cfg : Config} {i : Instr} (h : (planOf cfg i).ovf = true) :
    ∃ ch raw, i = .servo ch raw := by
  cases i with
  | init => cases h
  | motorDirOff | motorFwd | motorRev | motorBad | motorOff => cases (motorPlan_ovf ..).symm.trans h
  | servo ch raw => exact ⟨ch, raw, rfl⟩

theorem channelValid_of_ovf {cfg : Config} {i : Instr} (h : (planOf cfg i).ovf = true) : channelValid cfg i := by
  by_contra hv
  rw [planOf_invalid hv] at h
  cases h

theorem clamp_eq_min_max {v lo hi : Int} (h : lo ≤ hi) : clamp v lo hi = min (max v lo) hi := by
  unfold clamp
  split_ifs <;> omega

/-- The model's servo scaler is the integer form of 40_datapath.md R84, before it is cut to 12 bits. -/
theorem scaleServo_clampServo (cfg : Config) (raw : Int) :
    scaleServo cfg.frac (clampServo cfg.frac raw) = specPwmServo cfg raw := by
  have hclamp : clampServo cfg.frac raw = rawClamped cfg 180 raw := by
    rw [clampServo, clamp_eq_min_max (by simp [Config.angleMin])]
    simp [rawClamped, Config.angleMin, Config.angleMax]
  rw [hclamp]
  rfl

theorem specPwmServo_gt_of_ovf {cfg : Config} {raw : Int} (h : servoOvf (pwmServo cfg raw) = true) :
    511 < specPwmServo cfg raw := by
  have hcut : 511 < (pwmServo cfg raw).toNat := of_decide_eq_true h
  rw [pwmServo, scaleServo_clampServo, BitVec.toNat_ofNat] at hcut
  exact hcut.trans_le (Nat.mod_le _ _)

/-- A word whose plan has the flag is a SERVO with a valid channel and a value above 511, to be answered OK. -/
theorem servo_of_planOfWord_ovf {cfg : Config} {w : CmdWord} (h : (planOfWord cfg w).ovf = true) :
    (planOfWord cfg w).code = .ok ∧
      ∃ ch raw, decode w = .ok (.servo ch raw) ∧ 1 ≤ ch ∧ ch ≤ 8 ∧ 511 < specPwmServo cfg raw := by
  match hd : decode w with
  | .error _ => rw [planOfWord_error hd] at h; cases h
  | .ok i =>
    rw [planOfWord_ok hd] at h ⊢
    obtain ⟨ch, raw, rfl⟩ := exists_servo_of_ovf h
    obtain ⟨h1, h8⟩ := channelValid_of_ovf h
    rw [planOf_servo h1 h8] at h ⊢
    exact ⟨rfl, ch, raw, rfl, h1, h8, specPwmServo_gt_of_ovf h⟩

/-- Settles O52: a whole command ends with its plan's code and flag, a failed write with `(TransportError, 0)`, and only
a SERVO plan with a valid channel has the flag. -/
theorem responseRecordIsLegal : Obligations.ResponseRecordIsLegal := by
  intro s hi hp
  obtain hdone | hfailed := hi.resp hp
  · rw [hdone.rsp, rspCode_packRsp, rspOvf_packRsp]
    refine ⟨s.plan.code.toNat_bits_le, fun hovf => ?_⟩
    have hplan : s.plan.ovf = true := by simpa using congrArg (BitVec.getLsbD · 0) hovf
    obtain ⟨hcode, hservo⟩ := servo_of_planOfWord_ovf hplan
    exact ⟨congrArg RespCode.bits hcode, hservo⟩
  · rw [hfailed.rsp, rspCode_packRsp, rspOvf_packRsp]
    exact ⟨by decide, nofun⟩

end Sys2Proof.Machine

/-! ### What the family `40_datapath.md` needs beside the laws -/

namespace Sys2Proof.Machine

/-! ### Clamp and scale (40_datapath.md R81 to R85) -/

theorem rawClamped_le (cfg : Config) (limit : Nat) (raw : Int) : rawClamped cfg limit raw ≤ limit * 2 ^ cfg.frac := by
  unfold rawClamped
  omega

theorem rawClamped_mono (cfg : Config) (limit : Nat) {raw raw' : Int} (h : raw ≤ raw') :
    rawClamped cfg limit raw ≤ rawClamped cfg limit raw' := by
  unfold rawClamped
  omega

theorem rawClamped_eq_zero_iff (cfg : Config) {limit : Nat} (raw : Int) (h : 0 < limit) :
    rawClamped cfg limit raw = 0 ↔ raw ≤ 0 := by
  have hpos : 0 < limit * 2 ^ cfg.frac := Nat.mul_pos h (Nat.two_pow_pos _)
  unfold rawClamped
  omega

theorem rawClamped_eq_limit_iff (cfg : Config) {limit : Nat} (raw : Int) (h : 0 < limit) :
    rawClamped cfg limit raw = limit * 2 ^ cfg.frac ↔ (limit * 2 ^ cfg.frac : Nat) ≤ raw := by
  have hpos : 0 < limit * 2 ^ cfg.frac := Nat.mul_pos h (Nat.two_pow_pos _)
  unfold rawClamped
  omega

/-- Clamping in raw units is clamping the value `raw / 2^FRAC` (R81, R82). -/
theorem rawClamped_div (cfg : Config) (limit : Nat) (raw : Int) :
    (rawClamped cfg limit raw : ℚ) / 2 ^ cfg.frac = min (max ((raw : ℚ) / 2 ^ cfg.frac) 0) limit := by
  have hpow : (0 : ℚ) < 2 ^ cfg.frac := by positivity
  have hint : (rawClamped cfg limit raw : ℤ) = min (max raw 0) (limit * 2 ^ cfg.frac : Nat) :=
    Int.toNat_of_nonneg (le_min (le_max_right _ _) (Int.natCast_nonneg _))
  calc (rawClamped cfg limit raw : ℚ) / 2 ^ cfg.frac
      = min (max (raw : ℚ) 0) (limit * 2 ^ cfg.frac) / 2 ^ cfg.frac := by
        rw [← Int.cast_natCast, hint]
        push_cast
        rfl
    _ = min (max ((raw : ℚ) / 2 ^ cfg.frac) 0) limit := by
        rw [← min_div_div_right hpow.le, ← max_div_div_right hpow.le, zero_div, mul_div_cancel_right₀ _ hpow.ne']

/-- The integer form of the scaler rounds the exact rational, ties up, when half of the denominator is an integer
(R83, R84, R85). -/
theorem scale_eq_floor {half : Nat} (h : 0 < half) (num offset frac rawc : Nat) :
    (scale num (2 * half) offset frac rawc : ℤ) =
      ⌊(rawc : ℚ) / 2 ^ frac * (num / (2 * half : Nat)) + offset + 1 / 2⌋ := by
  have hhalf : (half : ℚ) ≠ 0 := by positivity
  rw [scale, Nat.mul_div_cancel_left half two_pos, Int.natCast_div, ← Rat.floor_intCast_div_natCast]
  congr 1
  push_cast
  field_simp
  ring

/-- The model's motor scaler is the integer form of R83, before it is cut to 12 bits. -/
theorem scaleMotor_clampMotor (cfg : Config) (raw : Int) :
    scaleMotor cfg.frac (clampMotor cfg.frac raw) = specPwmMotor cfg raw := by
  have hclamp : clampMotor cfg.frac raw = rawClamped cfg 100 raw := by
    rw [clampMotor, clamp_eq_min_max (by simp [Config.speedMin])]
    simp [rawClamped, Config.speedMin, Config.speedMax]
  rw [hclamp]
  rfl

theorem le_specPwmMotor_iff {cfg : Config} {raw : Int} {n : Nat} :
    n ≤ specPwmMotor cfg raw ↔ n * (20 * 2 ^ cfg.frac) ≤ rawClamped cfg 100 raw * 819 + 10 * 2 ^ cfg.frac :=
  Nat.le_div_iff_mul_le (by positivity)

theorem le_specPwmServo_iff {cfg : Config} {raw : Int} {n : Nat} :
    n ≤ specPwmServo cfg raw ↔ n * (2000 * 2 ^ cfg.frac) ≤ rawClamped cfg 180 raw * 4551 + 205000 * 2 ^ cfg.frac :=
  Nat.le_div_iff_mul_le (by positivity)

theorem specPwmMotor_le (cfg : Config) (raw : Int) : specPwmMotor cfg raw ≤ 4095 := by
  have hpow := Nat.two_pow_pos cfg.frac
  have hlimit := rawClamped_le cfg 100 raw
  by_contra h
  have hlow := le_specPwmMotor_iff.mp (Nat.lt_of_not_le h)
  omega

theorem specPwmServo_le (cfg : Config) (raw : Int) : specPwmServo cfg raw ≤ 512 := by
  have hpow := Nat.two_pow_pos cfg.frac
  have hlimit := rawClamped_le cfg 180 raw
  by_contra h
  have hlow := le_specPwmServo_iff.mp (Nat.lt_of_not_le h)
  omega

theorem specPwmServo_ge (cfg : Config) (raw : Int) : 102 ≤ specPwmServo cfg raw :=
  le_specPwmServo_iff.mpr (by omega)

theorem specPwmMotor_mono (cfg : Config) {raw raw' : Int} (h : raw ≤ raw') :
    specPwmMotor cfg raw ≤ specPwmMotor cfg raw' := by
  have hclamp := rawClamped_mono cfg 100 h
  unfold specPwmMotor
  gcongr

theorem specPwmServo_mono (cfg : Config) {raw raw' : Int} (h : raw ≤ raw') :
    specPwmServo cfg raw ≤ specPwmServo cfg raw' := by
  have hclamp := rawClamped_mono cfg 180 h
  unfold specPwmServo
  gcongr

/-- The 12 bits hold every motor value (R83). -/
theorem toNat_pwmMotor (cfg : Config) (raw : Int) : (pwmMotor cfg raw).toNat = specPwmMotor cfg raw := by
  have hle := specPwmMotor_le cfg raw
  rw [pwmMotor, scaleMotor_clampMotor, BitVec.toNat_ofNat, Nat.mod_eq_of_lt (by omega)]

/-- The 12 bits hold every servo value (R84). -/
theorem toNat_pwmServo (cfg : Config) (raw : Int) : (pwmServo cfg raw).toNat = specPwmServo cfg raw := by
  have hle := specPwmServo_le cfg raw
  rw [pwmServo, scaleServo_clampServo, BitVec.toNat_ofNat, Nat.mod_eq_of_lt (by omega)]

/-- Settles O8: the integer form is a rounding (`scale_eq_floor`) of the clamped value (`rawClamped_div`), and 819/20 is
40.95. -/
theorem motorScalerIsExactRounding : Obligations.MotorScalerIsExactRounding := by
  intro cfg raw
  refine ⟨?_, toNat_pwmMotor cfg raw⟩
  have hfloor : (specPwmMotor cfg raw : ℤ) = _ :=
    scale_eq_floor (half := 10) (by decide) 819 0 cfg.frac (rawClamped cfg 100 raw)
  rw [toNat_pwmMotor, hfloor, rawClamped_div]
  norm_num

/-- Settles O9: the integer form is a rounding (`scale_eq_floor`) of the clamped value (`rawClamped_div`), and 4551/2000
is 2.2755. -/
theorem servoScalerIsExactRounding : Obligations.ServoScalerIsExactRounding := by
  intro cfg raw
  refine ⟨?_, toNat_pwmServo cfg raw⟩
  have hfloor : (specPwmServo cfg raw : ℤ) = _ :=
    scale_eq_floor (half := 1000) (by decide) 4551 102 cfg.frac (rawClamped cfg 180 raw)
  rw [toNat_pwmServo, hfloor, rawClamped_div]
  norm_num

/-! ### Range and shape (R92, R93) -/

theorem specPwmMotor_eq_zero_iff {cfg : Config} {raw : Int} :
    specPwmMotor cfg raw = 0 ↔ rawClamped cfg 100 raw * 819 < 10 * 2 ^ cfg.frac := by
  rw [← Nat.lt_one_iff, ← Nat.not_le, le_specPwmMotor_iff]
  omega

theorem specPwmMotor_eq_max_iff {cfg : Config} {raw : Int} :
    specPwmMotor cfg raw = 4095 ↔ 81890 * 2 ^ cfg.frac ≤ rawClamped cfg 100 raw * 819 := by
  rw [(specPwmMotor_le cfg raw).ge_iff_eq.symm, le_specPwmMotor_iff]
  omega

theorem specPwmServo_eq_max_iff {cfg : Config} {raw : Int} :
    specPwmServo cfg raw = 512 ↔ 819000 * 2 ^ cfg.frac ≤ rawClamped cfg 180 raw * 4551 := by
  rw [(specPwmServo_le cfg raw).ge_iff_eq.symm, le_specPwmServo_iff]
  omega

/-- Settles O10: the thresholds from `le_specPwmMotor_iff`; in whole percents they are met at the clamp's limits only. -/
theorem motorPwmRangeAndShape : Obligations.MotorPwmRangeAndShape := by
  intro cfg raw raw'
  simp only [toNat_pwmMotor]
  refine ⟨specPwmMotor_le cfg raw, specPwmMotor_mono cfg, specPwmMotor_eq_zero_iff, specPwmMotor_eq_max_iff,
    fun hfrac => ?_⟩
  have hle := rawClamped_le cfg 100 raw
  have hzero := rawClamped_eq_zero_iff cfg (limit := 100) raw (by decide)
  have hmax := rawClamped_eq_limit_iff cfg (limit := 100) raw (by decide)
  rw [specPwmMotor_eq_zero_iff, specPwmMotor_eq_max_iff]
  simp only [hfrac, pow_zero] at hle hmax ⊢
  omega

/-- Settles O11: the threshold from `le_specPwmServo_iff`; up to 4 fraction bits the step `2^-FRAC` below 180 degrees is
below it. -/
theorem servoPwmRangeAndShape : Obligations.ServoPwmRangeAndShape := by
  intro cfg raw raw'
  simp only [toNat_pwmServo]
  refine ⟨specPwmServo_ge cfg raw, specPwmServo_le cfg raw, specPwmServo_mono cfg, specPwmServo_eq_max_iff,
    fun hfrac => ?_⟩
  have hpow : 2 ^ cfg.frac ≤ 2 ^ 4 := Nat.pow_le_pow_right two_pos hfrac
  have hle := rawClamped_le cfg 180 raw
  have hmax := rawClamped_eq_limit_iff cfg (limit := 180) raw (by decide)
  push_cast at hmax
  rw [specPwmServo_eq_max_iff, ← hmax]
  omega

/-! ### The byte splitters and the range flag (R86, R87, R88) -/

theorem toNat_lowByte (pwm : Pwm) : (lowByte pwm).toNat = pwm.toNat % 256 := by
  rw [lowByte, BitVec.toNat_setWidth, BitVec.toNat_and]
  have hmask : pwm.toNat &&& 255 = pwm.toNat % 256 := Nat.and_two_pow_sub_one_eq_mod _ 8
  exact (congrArg (· % 256) hmask).trans (Nat.mod_mod _ _)

/-- With a mask of `n` low bits the high byte is the value from bit 8 on, cut to `n` bits. -/
theorem toNat_highByte {mask : Pwm} {n : Nat} (hmask : mask.toNat = 2 ^ n - 1) (hn : n ≤ 8) (pwm : Pwm) :
    (highByte mask pwm).toNat = pwm.toNat / 256 % 2 ^ n := by
  have hlt : pwm.toNat / 256 % 2 ^ n < 2 ^ 8 :=
    (Nat.mod_lt _ (Nat.two_pow_pos n)).trans_le (Nat.pow_le_pow_right two_pos hn)
  rw [highByte, BitVec.toNat_setWidth, BitVec.toNat_and, BitVec.toNat_ushiftRight, hmask,
    Nat.and_two_pow_sub_one_eq_mod, Nat.shiftRight_eq_div_pow]
  exact Nat.mod_eq_of_lt hlt

theorem toNat_highMotor (pwm : Pwm) : (highMotor pwm).toNat = pwm.toNat / 256 := by
  have hlt := pwm.isLt
  rw [highMotor, toNat_highByte (n := 8) (by decide) (by decide)]
  omega

theorem toNat_highServo (pwm : Pwm) : (highServo pwm).toNat = pwm.toNat / 256 % 2 :=
  toNat_highByte (n := 1) (by decide) (by decide) pwm

theorem servoOvf_iff {pwm : Pwm} : servoOvf pwm = true ↔ 511 < pwm.toNat := decide_eq_true_iff

/-- Settles O12, by the two bytes as numbers. -/
theorem motorSplitReassembles : Obligations.MotorSplitReassembles := by
  intro pwm
  have hlt := pwm.isLt
  rw [toNat_lowByte, toNat_highMotor]
  omega

/-- Settles O13, by the two bytes as numbers. -/
theorem servoSplitDropsBitNine : Obligations.ServoSplitDropsBitNine := by
  intro pwm
  rw [toNat_lowByte, toNat_highServo]
  exact ⟨rfl, rfl, by omega, by omega, servoOvf_iff⟩

/-! ### The writes of SERVO (R88, R89) -/

theorem chipWrite_eq_toChip (reg : RegAddr) (data : Byte) : chipWrite reg data = toChip reg data.toNat := by
  rw [toChip, BitVec.ofNat_toNat, BitVec.setWidth_eq, chipWrite]

theorem specServoReg_zero (ch : Nat) : specServoReg ch 0 = addrServo ch := rfl

theorem specServoReg_one (ch : Nat) : specServoReg ch 1 = addrServo ch + 1 := BitVec.ofNat_add _ _

/-- A valid SERVO sends the split of its value, low byte first (41_commands.md R107). -/
theorem servo_writes {ch : Nat} (h1 : 1 ≤ ch) (h8 : ch ≤ 8) (cfg : Config) (raw : Int) :
    (planOf cfg (.servo ch raw)).writes =
      [toChip (specServoReg ch 0) ((pwmServo cfg raw).toNat % 256),
       toChip (specServoReg ch 1) ((pwmServo cfg raw).toNat / 256 % 2)] := by
  rw [planOf_servo h1 h8]
  simp only [chipWrite_eq_toChip, toNat_lowByte, toNat_highServo, specServoReg_zero, specServoReg_one]

/-- Settles O14: the flag is the comparison with 511, 512 is the one value above it (R93), and its split is two zero
bytes. -/
theorem servoOverflowWritesZero : Obligations.ServoOverflowWritesZero := by
  intro cfg ch raw h1 h8
  have hle : (pwmServo cfg raw).toNat ≤ 512 := toNat_pwmServo cfg raw ▸ specPwmServo_le cfg raw
  have hovf : (planOf cfg (.servo ch raw)).ovf = true ↔ 511 < (pwmServo cfg raw).toNat := by
    rw [planOf_servo h1 h8]
    exact servoOvf_iff
  have hmax : (planOf cfg (.servo ch raw)).ovf = true ↔ (pwmServo cfg raw).toNat = 512 :=
    hovf.trans (by omega)
  refine ⟨hovf, hmax, by rw [planOf_servo h1 h8], servo_writes h1 h8 cfg raw, fun h => ?_, fun i hi => ?_⟩
  · rw [servo_writes h1 h8, hmax.mp h]
  · refine Bool.eq_false_iff.mpr fun h => ?_
    obtain ⟨c, r, rfl⟩ := exists_servo_of_ovf h
    exact hi c r rfl

/-! ### The registers of different channels (R95) -/

/-- What a command other than INIT names lies in the blocks of its motor or in the block of its servo. -/
theorem regs_in_block {cfg : Config} {i : Instr} {a : RegAddr} (hcfg : cfg.valid = true) (hi : i ≠ .init)
    (ha : a ∈ (planOf cfg i).regs) :
    (∃ m, motorOf i = some m ∧ 1 ≤ m ∧ 0x28 + 8 * (m - 1) ≤ a.toNat ∧ a.toNat < 0x28 + 8 * m) ∨
    (∃ ch raw, i = .servo ch raw ∧ 1 ≤ ch ∧ ch ≤ 8 ∧ 0x08 + 4 * (ch - 1) ≤ a.toNat ∧ a.toNat < 0x08 + 4 * ch) := by
  obtain ⟨w, hw, rfl⟩ := List.mem_map.mp ha
  have hw := List.mem_of_mem_filter hw
  obtain ⟨m, hm⟩ | ⟨ch, raw, rfl⟩ := exists_motorOf_or_servo hi
  · obtain ⟨⟨h1, h2⟩, -, hreg⟩ := motor_write_target_reg hm hw
    obtain ⟨hlow, hhigh, -⟩ := motorRegs_bounds h1 (h2.trans (nMotor_le_of_valid hcfg)) hreg
    exact .inl ⟨m, hm, h1, hlow, hhigh⟩
  · obtain ⟨⟨h1, h8⟩, -, hreg⟩ := servo_write_target_reg hw
    obtain ⟨hlow, hhigh, -⟩ := servoRegs_bounds h1 h8 hreg
    exact .inr ⟨ch, raw, rfl, h1, h8, hlow, hhigh⟩

/-- Settles O15: a common register would lie in the blocks of both channels, and the blocks are disjoint. -/
theorem channelsShareNoRegister : Obligations.ChannelsShareNoRegister := by
  intro cfg i j hcfg _ _ hi hj hservo hmotor a hai haj
  obtain ⟨m, hm, h1, hlow, hhigh⟩ | ⟨c, r, hc, h1, h8, hlow, hhigh⟩ := regs_in_block hcfg hi hai <;>
    obtain ⟨m', hm', h1', hlow', hhigh'⟩ | ⟨c', r', hc', h1', h8', hlow', hhigh'⟩ := regs_in_block hcfg hj haj
  · have hne : m ≠ m' := fun h => hmotor m hm (h ▸ hm')
    omega
  · omega
  · omega
  · have hne : c ≠ c' := hservo c r c' r' hc hc'
    omega

end Sys2Proof.Machine

/-! ### What the family `41_commands.md` needs beside the laws -/

namespace Sys2Proof.Machine

/-- Settles O50, by `step_keeps_inv`: each case of a step keeps the invariant by a lemma of its own. -/
theorem stepKeepsInvariant : Obligations.StepKeepsInvariant := fun _ _ hi h => step_keeps_inv hi h

/-! ### The commands one write at a time (R101 to R107) -/

theorem Memory.apply_ack (m : Memory) (w : Write) :
    m.apply w .ack = if w.target = .chip then m.write w.reg.toNat w.data else m := by
  cases h : w.target <;> simp [Memory.apply, h]

theorem Pins.answer_ack {p : Pins} (h : p.wrErr = false) : p.answer = .ack := by simp [Pins.answer, h]

theorem Pins.answer_err {p : Pins} (h : p.wrErr = true) : p.answer = .err := by simp [Pins.answer, h]

/-- An acknowledged write in full: the image, the log and the index take it up, and the last one answers the command
(41_commands.md R100). -/
theorem State.regWrite_ack_advance {s : State} (hp : s.phase = .busy) (w : Write) (p : Plan) :
    (s.regWrite w .ack).advance p =
      { s with
        widx  := s.widx + 1#3
        reg   := if w.target = .chip then s.reg.write w.reg.toNat w.data else s.reg
        wlog  := s.wlog ++ [⟨w, .ack⟩]
        phase := if s.widx.toNat + 1 = p.writes.length then .resp else .busy
        rsp   := if s.widx.toNat + 1 = p.writes.length then packRsp p.code p.ovf else s.rsp } := by
  rw [← Memory.apply_ack]
  by_cases hl : s.widx.toNat + 1 = p.writes.length
  · rw [State.advance_last (s := s.regWrite w .ack) hl, if_pos hl, if_pos hl]
    rfl
  · rw [State.advance_more (s := s.regWrite w .ack) hl, if_neg hl, if_neg hl, ← hp]
    rfl

/-- A failed write in full: it is logged, leaves the image, and ends the command (60_exceptions.md R124). -/
theorem State.regWrite_err_respond (s : State) (w : Write) :
    (s.regWrite w .err).respond .transportError false =
      { s with wlog := s.wlog ++ [⟨w, .err⟩], phase := .resp, rsp := 3#4 } := by
  rw [State.regWrite, Memory.apply_err]
  rfl

/-- Every command with a write to send runs through its plan's list by the sequencer's three edges. -/
theorem sendsInOrder_of_planOf {i : Instr} {s : State} {writes : List Write} {code : RespCode} {ovf : Bool}
    {rsp : BitVec 4} (hplan : planOf s.cfg i = ⟨writes, code, ovf⟩) (hne : writes ≠ [])
    (hrsp : packRsp code ovf = rsp) :
    SendsInOrder i writes rsp s := by
  subst hrsp
  refine ⟨fun hp hv => ?_, fun w hp hw hr he => ?_, fun w hp hw hr he => ?_⟩ <;> rw [exec_eq_runSequencer, hplan]
  · rw [runSequencer_idle_offer hp hv, State.accept_nonempty hne]
    rfl
  · rw [runSequencer_busy_ready hp hw hr, Pins.answer_ack he, State.complete_ack, State.regWrite_ack_advance hp]
  · rw [runSequencer_busy_ready hp hw hr, Pins.answer_err he, State.complete_err, State.regWrite_err_respond]

/-- A command of an invalid channel has nothing to send and is answered InvalidChannel = 2 at acceptance
(60_exceptions.md R122, R123). -/
theorem answeredAtOnce_of_not_channelValid {i : Instr} {s : State} (h : ¬ channelValid s.cfg i) :
    AnsweredAtOnce i 2#4 s := by
  intro hp hv
  rw [exec_eq_runSequencer, planOf_invalid h, runSequencer_idle_offer hp hv, State.accept_empty rfl]
  rfl

/-! ### The plans in the spec's numbers (40_datapath.md R83, R84, R86, R87, R89, R90) -/

theorem specMotorReg_eq_add (m off : Nat) : specMotorReg m off = addrMotor m + BitVec.ofNat 8 off :=
  BitVec.ofNat_add _ _

theorem specMotorReg_zero (m : Nat) : specMotorReg m 0 = addrMotor m := rfl
theorem specMotorReg_one (m : Nat) : specMotorReg m 1 = addrMotor m + 1 := specMotorReg_eq_add m 1
theorem specMotorReg_four (m : Nat) : specMotorReg m 4 = addrMotor m + 4 := specMotorReg_eq_add m 4
theorem specMotorReg_five (m : Nat) : specMotorReg m 5 = addrMotor m + 5 := specMotorReg_eq_add m 5

theorem zeroWrites_addrMotor (m : Nat) : zeroWrites (addrMotor m) = specZeroWrites m := by
  rw [specZeroWrites, specMotorReg_zero, specMotorReg_one, specMotorReg_four, specMotorReg_five]
  rfl

theorem chipWrite_lowByte_pwmMotor (cfg : Config) (raw : Int) (reg : RegAddr) :
    chipWrite reg (lowByte (pwmMotor cfg raw)) = toChip reg (specPwmMotor cfg raw % 256) := by
  rw [chipWrite_eq_toChip, toNat_lowByte, toNat_pwmMotor]

theorem chipWrite_highMotor_pwmMotor (cfg : Config) (raw : Int) (reg : RegAddr) :
    chipWrite reg (highMotor (pwmMotor cfg raw)) = toChip reg (specPwmMotor cfg raw / 256) := by
  rw [chipWrite_eq_toChip, toNat_highMotor, toNat_pwmMotor]

section
variable {cfg : Config} {ch : Nat}

theorem planOf_motorFwd_spec (h1 : 1 ≤ ch) (h2 : ch ≤ cfg.nMotor) (raw : Int) :
    planOf cfg (.motorFwd ch raw) =
      ⟨[toChip (specMotorReg ch 0) (specPwmMotor cfg raw % 256),
        toChip (specMotorReg ch 1) (specPwmMotor cfg raw / 256),
        toChip (specMotorReg ch 4) 0, toChip (specMotorReg ch 5) 0], .ok, false⟩ := by
  rw [planOf_motorFwd h1 h2, chipWrite_lowByte_pwmMotor, chipWrite_highMotor_pwmMotor, specMotorReg_zero,
    specMotorReg_one, specMotorReg_four, specMotorReg_five]
  rfl

theorem planOf_motorRev_spec (h1 : 1 ≤ ch) (h2 : ch ≤ cfg.nMotor) (raw : Int) :
    planOf cfg (.motorRev ch raw) =
      ⟨[toChip (specMotorReg ch 4) (specPwmMotor cfg raw % 256),
        toChip (specMotorReg ch 5) (specPwmMotor cfg raw / 256),
        toChip (specMotorReg ch 0) 0, toChip (specMotorReg ch 1) 0], .ok, false⟩ := by
  rw [planOf_motorRev h1 h2, chipWrite_lowByte_pwmMotor, chipWrite_highMotor_pwmMotor, specMotorReg_zero,
    specMotorReg_one, specMotorReg_four, specMotorReg_five]
  rfl

theorem planOf_motorDirOff_spec (h1 : 1 ≤ ch) (h2 : ch ≤ cfg.nMotor) :
    planOf cfg (.motorDirOff ch) = ⟨specZeroWrites ch, .ok, false⟩ := by
  rw [planOf_motorDirOff h1 h2, zeroWrites_addrMotor]

theorem planOf_motorBad_spec (h1 : 1 ≤ ch) (h2 : ch ≤ cfg.nMotor) :
    planOf cfg (.motorBad ch) = ⟨specZeroWrites ch, .invalidDirection, false⟩ := by
  rw [planOf_motorBad h1 h2, zeroWrites_addrMotor]

theorem planOf_motorOff_spec (h1 : 1 ≤ ch) (h2 : ch ≤ cfg.nMotor) :
    planOf cfg (.motorOff ch) = ⟨specZeroWrites ch, .ok, false⟩ := by
  rw [planOf_motorOff h1 h2, zeroWrites_addrMotor]

theorem planOf_servo_spec (h1 : 1 ≤ ch) (h8 : ch ≤ 8) (raw : Int) :
    planOf cfg (.servo ch raw) =
      ⟨[toChip (specServoReg ch 0) (specPwmServo cfg raw % 256),
        toChip (specServoReg ch 1) (specPwmServo cfg raw / 256 % 2)],
        .ok, servoOvf (pwmServo cfg raw)⟩ := by
  have hwrites := servo_writes h1 h8 cfg raw
  rw [toNat_pwmServo] at hwrites
  rw [← hwrites, planOf_servo h1 h8]

/-- OK with the range flag as a response value: `ovf` is bit 3, the code 0 (10_state.md R24, 40_datapath.md R88). -/
theorem packRsp_ok_servoOvf (cfg : Config) (raw : Int) :
    packRsp .ok (servoOvf (pwmServo cfg raw)) = if 511 < specPwmServo cfg raw then 8#4 else 0#4 := by
  rw [servoOvf, toNat_pwmServo]
  split_ifs with h <;> simp [h, packRsp, RespCode.bits]

end

/-! ### The obligations on each command's edges -/

/-- Settles O17: the seven writes are those of `initPlan`, in its order. -/
theorem initSendsBringUpSequence : Obligations.InitSendsBringUpSequence :=
  fun _ => sendsInOrder_of_planOf (i := .init) rfl (List.cons_ne_nil _ _) rfl

/-- Settles O18, by the forward plan in the spec's numbers. -/
theorem motorFwdSendsForwardPairFirst : Obligations.MotorFwdSendsForwardPairFirst := fun _ ch raw =>
  ⟨fun ⟨h1, h2⟩ => sendsInOrder_of_planOf (planOf_motorFwd_spec h1 h2 raw) (List.cons_ne_nil _ _) rfl,
    answeredAtOnce_of_not_channelValid (i := .motorFwd ch raw)⟩

/-- Settles O19, by the reverse plan in the spec's numbers. -/
theorem motorRevSendsReversePairFirst : Obligations.MotorRevSendsReversePairFirst := fun _ ch raw =>
  ⟨fun ⟨h1, h2⟩ => sendsInOrder_of_planOf (planOf_motorRev_spec h1 h2 raw) (List.cons_ne_nil _ _) rfl,
    answeredAtOnce_of_not_channelValid (i := .motorRev ch raw)⟩

/-- Settles O20: the plan is the four zero writes with the code OK. -/
theorem motorDirOffSendsFourZeros : Obligations.MotorDirOffSendsFourZeros := fun _ ch =>
  ⟨fun ⟨h1, h2⟩ => sendsInOrder_of_planOf (planOf_motorDirOff_spec h1 h2) (List.cons_ne_nil _ _) rfl,
    answeredAtOnce_of_not_channelValid (i := .motorDirOff ch)⟩

/-- Settles O21: the plan is the four zero writes with the code InvalidDirection. -/
theorem motorBadZeroesThenReportsDirection : Obligations.MotorBadZeroesThenReportsDirection := fun _ ch =>
  ⟨fun ⟨h1, h2⟩ => sendsInOrder_of_planOf (planOf_motorBad_spec h1 h2) (List.cons_ne_nil _ _) rfl,
    answeredAtOnce_of_not_channelValid (i := .motorBad ch)⟩

/-- Settles O22: the plan is the four zero writes with the code OK. -/
theorem motorOffSendsFourZeros : Obligations.MotorOffSendsFourZeros := fun _ ch =>
  ⟨fun ⟨h1, h2⟩ => sendsInOrder_of_planOf (planOf_motorOff_spec h1 h2) (List.cons_ne_nil _ _) rfl,
    answeredAtOnce_of_not_channelValid (i := .motorOff ch)⟩

/-- Settles O23, by the servo plan in the spec's numbers; the flag is the comparison with 511. -/
theorem servoSendsLowThenHigh : Obligations.ServoSendsLowThenHigh := fun s ch raw =>
  ⟨fun ⟨h1, h8⟩ =>
      sendsInOrder_of_planOf (planOf_servo_spec h1 h8 raw) (List.cons_ne_nil _ _) (packRsp_ok_servoOvf s.cfg raw),
    answeredAtOnce_of_not_channelValid (i := .servo ch raw)⟩

/-! ### How many writes a command has (R109) -/

/-- Settles O29: valid channels by `planOf_length`, invalid ones and illegal words by their empty plans. -/
theorem writeCounts : Obligations.WriteCounts := by
  refine ⟨fun cfg i h => ?_, fun cfg i h => ?_, fun cfg w h => ?_⟩
  · rw [planOf_length h]
    cases i <;> simp [motorOf]
  · rw [planOf_invalid h, List.length_nil]
  · rw [planOfWord_error ((decoderTotalAndRejectsOnlyReservedBits w).2 h), illegalPlan, List.length_nil]

/-! ### The registers a command leaves alone (R111) -/

/-- An address that no write of the command's list names reads as before. -/
theorem exec_reg_read_of_not_written {i : Instr} {s t : State} {a : Nat} (h : exec i s = .next t)
    (ha : ∀ w ∈ (planOf s.cfg i).writes, w.reg.toNat ≠ a) : t.reg.read a = s.reg.read a := by
  cases exec_next_cases h with
  | ack w _ hw => simpa using s.reg.read_apply_other .ack fun _ => ha w (List.mem_of_getElem? hw)
  | quiet | accept | wait | err | hold | deliver => simp

theorem motorRegs_addrMotor (m : Nat) :
    motorRegs (addrMotor m) = [specMotorReg m 0, specMotorReg m 1, specMotorReg m 4, specMotorReg m 5] := by
  rw [motorRegs, specMotorReg_zero, specMotorReg_one, specMotorReg_four, specMotorReg_five]

theorem servoRegs_addrServo (ch : Nat) : servoRegs (addrServo ch) = [specServoReg ch 0, specServoReg ch 1] := by
  rw [servoRegs, specServoReg_zero, specServoReg_one]

/-- Settles O32: the list of a motor command names the four registers of its motor only (20_memory.md R43). -/
theorem motorCommandFrame : Obligations.MotorCommandFrame := by
  intro i m s t hm h a h0 h1 h4 h5
  refine exec_reg_read_of_not_written h fun w hw => ?_
  obtain ⟨-, -, hreg⟩ := motor_write_target_reg hm hw
  simp only [motorRegs_addrMotor, List.mem_cons, List.not_mem_nil, or_false] at hreg
  rcases hreg with hreg | hreg | hreg | hreg <;> rw [hreg] <;> exact Ne.symm ‹_›

/-- Settles O33: the list of SERVO names the two registers of its channel only (20_memory.md R42). -/
theorem servoCommandFrame : Obligations.ServoCommandFrame := by
  intro ch raw s t h a h0 h1
  refine exec_reg_read_of_not_written h fun w hw => ?_
  obtain ⟨-, -, hreg⟩ := servo_write_target_reg hw
  simp only [servoRegs_addrServo, List.mem_cons, List.not_mem_nil, or_false] at hreg
  rcases hreg with hreg | hreg <;> rw [hreg] <;> exact Ne.symm ‹_›

/-! ### The step and its phases (R100) -/

theorem step_of_decode {s : State} {w : CmdWord} {i : Instr} (hrst : s.pins.rst = false)
    (hc : s.commandInForce = some w) (hd : decode w = .ok i) : step s = thenNext State.endEdge (exec i s) := by
  rw [step_word hrst hc, planOfWord_ok hd, exec_eq_runSequencer]

theorem endEdge_of_exec {i : Instr} {s t : State} (h : exec i s = .next t) :
    t.endEdge = { t with inbox := s.inbox.tail, tick := s.tick + 1 } := by
  obtain ⟨-, hinbox, htick, -⟩ := commandRegisterFrame i s t h
  rw [State.endEdge, hinbox, htick]

/-- Settles O34: the word in force is the offered one or `CMDR`, and exec leaves the pins and the counter to the end of
the edge. -/
theorem stepRunsDecodedCommand : Obligations.StepRunsDecodedCommand := by
  intro s i hrst hforce
  have hstep : step s = thenNext State.endEdge (exec i s) := by
    obtain ⟨hp, hv, hd⟩ | ⟨hp, hd⟩ := hforce
    · exact step_of_decode hrst (commandInForce_idle hp hv) hd
    · exact step_of_decode hrst (commandInForce_in_flight hp) hd
  refine ⟨fun t h => ?_, fun r h => ?_⟩
  · rw [hstep, h, thenNext_next, endEdge_of_exec h]
  · rw [hstep, h]
    rfl

theorem State.accept_phase (s : State) (c : CmdWord) (p : Plan) :
    (s.accept c p).phase = if p.writes = [] then .resp else .busy := by
  by_cases hw : p.writes = []
  · rw [State.accept_empty hw, if_pos hw, State.respond_phase]
  · rw [State.accept_nonempty hw, if_neg hw]

theorem State.advance_phase (s : State) (p : Plan) :
    (s.advance p).phase = if s.widx.toNat + 1 = p.writes.length then .resp else s.phase := by
  by_cases hl : s.widx.toNat + 1 = p.writes.length
  · rw [State.advance_last hl, if_pos hl, State.respond_phase]
  · rw [State.advance_more hl, if_neg hl, State.bump_phase]

/-- Settles O42: of the step's cases acceptance and delivery set the phase, an acknowledged write sets it after the last
one, and a failed write sets it at once. -/
theorem phasesFollowTheSequencer : Obligations.PhasesFollowTheSequencer := by
  intro s t hrst h
  cases step_next_cases h with
  | rst h1 => simp [hrst] at h1
  | accept _ hp hv => simp [hp, hv, State.accept_phase]
  | hold _ hq => rcases hq with ⟨hp, hv⟩ | ⟨hp, hr⟩ | ⟨hp, hr⟩ <;> simp [*]
  | ack w _ hp _ hr =>
    simp only [State.endEdge_phase, State.advance_phase, State.regWrite_phase, hp, hr]
    split_ifs <;> simp
  | err w _ hp _ hr => simp [hp, hr]
  | deliver _ hp hr => simp [hp, hr]

/-! ### One pair of a motor is zero after its command (R110) -/

/-- A motor command with a valid channel sends two bytes to one pair of its motor, then zeros to the other; two of the
four zeros of R104 to R106 are such bytes. -/
theorem motor_writes_cases {cfg : Config} {i : Instr} {m : Nat} (hm : motorOf i = some m) (hv : channelValid cfg i) :
    ∃ lo hi, (planOf cfg i).writes =
        [chipWrite (addrMotor m) lo, chipWrite (addrMotor m + 1) hi,
          chipWrite (addrMotor m + 4) 0#8, chipWrite (addrMotor m + 5) 0#8] ∨
      (planOf cfg i).writes =
        [chipWrite (addrMotor m + 4) lo, chipWrite (addrMotor m + 5) hi,
          chipWrite (addrMotor m) 0#8, chipWrite (addrMotor m + 1) 0#8] := by
  cases i with
  | init | servo => cases hm
  | motorDirOff => cases hm; rw [planOf_motorDirOff hv.1 hv.2]; exact ⟨0#8, 0#8, .inl rfl⟩
  | motorBad => cases hm; rw [planOf_motorBad hv.1 hv.2]; exact ⟨0#8, 0#8, .inl rfl⟩
  | motorOff => cases hm; rw [planOf_motorOff hv.1 hv.2]; exact ⟨0#8, 0#8, .inl rfl⟩
  | motorFwd => cases hm; rw [planOf_motorFwd hv.1 hv.2]; exact ⟨_, _, .inl rfl⟩
  | motorRev => cases hm; rw [planOf_motorRev hv.1 hv.2]; exact ⟨_, _, .inr rfl⟩

theorem motor_regs_nodup {cfg : Config} {i : Instr} {m : Nat} (hm : motorOf i = some m) (hv : channelValid cfg i) :
    (planOf cfg i).regs.Nodup := by
  obtain ⟨lo, hi, hw | hw⟩ := motor_writes_cases hm hv <;> simp [Plan.regs, hw, chipWrite]

/-- A plan zero-writes the register pair at `lo`. -/
def Plan.zeroesPair (p : Plan) (lo : RegAddr) : Prop :=
  chipWrite lo 0#8 ∈ p.writes ∧ chipWrite (lo + 1) 0#8 ∈ p.writes

theorem motor_zeroesPair {cfg : Config} {i : Instr} {m : Nat} (hm : motorOf i = some m) (hv : channelValid cfg i) :
    (planOf cfg i).zeroesPair (specMotorReg m 0) ∨ (planOf cfg i).zeroesPair (specMotorReg m 4) := by
  have hnext : addrMotor m + 4 + 1 = addrMotor m + 5 := BitVec.add_assoc _ _ _
  rw [specMotorReg_zero, specMotorReg_four, Plan.zeroesPair, Plan.zeroesPair, hnext]
  obtain ⟨lo, hi, hw | hw⟩ := motor_writes_cases hm hv <;> rw [hw]
  · exact .inr (by simp)
  · exact .inl (by simp)

theorem State.DoneInv.read_of_mem {s : State} (h : s.DoneInv) (hn : s.plan.regs.Nodup) {w : Write}
    (hw : w ∈ s.plan.writes) (ht : w.target = .chip) : s.reg.read w.reg.toNat = some w.data :=
  h.image hn w (List.take_length ▸ hw) ht

theorem State.DoneInv.pairZero {s : State} (h : s.DoneInv) (hn : s.plan.regs.Nodup) {lo : RegAddr}
    (hz : s.plan.zeroesPair lo) : pairZero s.reg lo :=
  hz.imp (h.read_of_mem hn · rfl) (h.read_of_mem hn · rfl)

/-- An answer OK or InvalidDirection comes after the whole list of a command with a valid channel: a failed write
answers TransportError, an invalid channel InvalidChannel. -/
theorem doneInv_of_rspCode {s : State} {i : Instr} (hi : s.Inv) (hp : s.phase = .resp) (hd : decode s.cmdr = .ok i)
    (hcode : rspCode s.rsp = 0#3 ∨ rspCode s.rsp = 1#3) : s.DoneInv ∧ channelValid s.cfg i := by
  obtain hdone | hfailed := hi.resp hp
  · refine ⟨hdone, ?_⟩
    by_contra hv
    rw [hdone.rsp, rspCode_packRsp, State.plan, planOfWord_ok hd, planOf_invalid hv] at hcode
    exact absurd hcode (by decide)
  · rw [hfailed.rsp, rspCode_packRsp] at hcode
    exact absurd hcode (by decide)

/-- Settles O53: the whole list was acknowledged, names no register twice, and holds the two zero writes of one pair, so
both stand in `REG`. -/
theorem motorPairsExcludeEachOther : Obligations.MotorPairsExcludeEachOther := by
  intro s i m hi hp hd hm hcode
  obtain ⟨hdone, hv⟩ := doneInv_of_rspCode hi hp hd hcode
  have hplan : s.plan = planOf s.cfg i := planOfWord_ok hd
  have hn : s.plan.regs.Nodup := hplan ▸ motor_regs_nodup hm hv
  exact (hplan ▸ motor_zeroesPair hm hv).imp (hdone.pairZero hn) (hdone.pairZero hn)

/-! ### A whole acknowledged command (R100, R49) -/

/-- The block once the first `k` writes of the command word `w`, accepted by the Idle state `s`, are acknowledged, one
edge each after acceptance: still Busy, with the pins `inbox` to come. -/
def State.sending (s : State) (w : CmdWord) (k : Nat) (inbox : List Pins) : State :=
  { s with
    phase := .busy
    cmdr  := w
    widx  := BitVec.ofNat 3 k
    reg   := replay s.reg ((planOfWord s.cfg w).acked k)
    wlog  := s.wlog ++ (planOfWord s.cfg w).acked k
    inbox := inbox
    tick  := s.tick + (k + 1) }

section
variable {s : State} {w : CmdWord} {rest : List Pins}

/-- Acceptance of a command with a write to send. -/
theorem step_offer (hp : s.phase = .idle) (hne : (planOfWord s.cfg w).writes ≠ [])
    (hin : s.inbox = Pins.offer w :: rest) :
    step s = .next (s.sending w 0 rest) := by
  have hpins : s.pins = Pins.offer w := by rw [State.pins, hin]
  have hv : s.pins.cmdValid = true := by rw [hpins]; rfl
  have hcmd : s.pins.cmd = w := by rw [hpins]; rfl
  have hforce : s.commandInForce = some w := hcmd ▸ commandInForce_idle hp hv
  rw [step_word (by rw [hpins]; rfl) hforce, runSequencer_idle_offer hp hv, thenNext_next, hcmd,
    State.accept_nonempty hne, State.endEdge]
  simp [State.latch, State.sending, hin, Plan.acked, replay]

variable {k : Nat}

theorem toNat_sending_widx (hk : k < (planOfWord s.cfg w).writes.length) :
    (s.sending w k rest).widx.toNat = k := by
  have hle := planOfWord_length_le s.cfg w
  simp only [State.sending, BitVec.toNat_ofNat]
  omega

/-- The next write acknowledged: one entry longer, one index further. -/
theorem sending_succ (rest : List Pins) {x : Write} (hx : (planOfWord s.cfg w).writes[k]? = some x) :
    ((s.sending w k (Pins.ack :: rest)).regWrite x .ack).bump.endEdge = s.sending w (k + 1) rest := by
  simp only [State.sending, Plan.acked_succ hx, replay_snoc, BitVec.ofNat_add]
  simp [State.regWrite, State.bump, State.endEdge, Nat.add_assoc]

theorem step_sending {x : Write} (hx : (planOfWord s.cfg w).writes[k]? = some x) :
    step (s.sending w k (Pins.ack :: rest)) =
      .next (((s.sending w k (Pins.ack :: rest)).regWrite x .ack).advance (planOfWord s.cfg w)).endEdge := by
  obtain ⟨hk, -⟩ := List.getElem?_eq_some_iff.mp hx
  have hoffered : (planOfWord s.cfg w).writes[(s.sending w k (Pins.ack :: rest)).widx.toNat]? = some x := by
    rw [toNat_sending_widx hk, hx]
  rw [step_word rfl (commandInForce_busy rfl)]
  exact congrArg (thenNext State.endEdge) (runSequencer_busy_ready rfl hoffered rfl)

theorem step_sending_more (h : k + 1 < (planOfWord s.cfg w).writes.length) :
    step (s.sending w k (Pins.ack :: rest)) = .next (s.sending w (k + 1) rest) := by
  have hk : k < (planOfWord s.cfg w).writes.length := by omega
  have hx := List.getElem?_eq_getElem hk
  rw [step_sending hx, State.advance_more, sending_succ rest hx]
  rw [State.regWrite_widx, toNat_sending_widx hk]
  omega

theorem step_sending_last (h : k + 1 = (planOfWord s.cfg w).writes.length) :
    step (s.sending w k (Pins.ack :: rest)) =
      .next ((s.sending w (k + 1) rest).respond (planOfWord s.cfg w).code (planOfWord s.cfg w).ovf) := by
  have hk : k < (planOfWord s.cfg w).writes.length := by omega
  have hx := List.getElem?_eq_getElem hk
  rw [step_sending hx, State.advance_last, ← sending_succ rest hx]
  · rfl
  · rw [State.regWrite_widx, toNat_sending_widx hk, h]

/-- `j` acknowledged writes, none of them the last. -/
theorem run_sending {n j : Nat} (h : k + j < (planOfWord s.cfg w).writes.length) :
    Host.Core.run Sys2Proof.core (n + j) (s.sending w k (List.replicate j Pins.ack ++ rest)) =
      Host.Core.run Sys2Proof.core n (s.sending w (k + j) rest) := by
  induction j generalizing k with
  | zero => rfl
  | succ j ih =>
    have hk : k + 1 < (planOfWord s.cfg w).writes.length := by omega
    have hstep := step_sending_more (rest := List.replicate j Pins.ack ++ rest) hk
    rw [List.replicate_succ, List.cons_append, ← Nat.add_assoc, core_run_succ hstep, ih (by omega), Nat.add_assoc,
      Nat.add_comm 1 j]

end

/-- The response taken: an edge that only delivers it. -/
theorem step_take {s : State} {rest : List Pins} (hp : s.phase = .resp) (hin : s.inbox = Pins.take :: rest) :
    step s = .next s.deliver.endEdge := by
  have hpins : s.pins = Pins.take := by rw [State.pins, hin]
  have hready : s.pins.rspReady = true := by rw [hpins]; rfl
  rw [step_in_flight (by rw [hpins]; rfl) (by simp [hp]), runSequencer_resp_take hp hready, thenNext_next]

/-- Settles O27: acceptance, all writes but the last by `run_sending`, the last one, and the delivery. -/
theorem acknowledgedCommandRunsToItsResponse : Obligations.AcknowledgedCommandRunsToItsResponse := by
  intro s w i rest hd hv hp plan n hin
  have hplan : planOfWord s.cfg w = plan := planOfWord_ok hd
  have hne : (planOfWord s.cfg w).writes ≠ [] := hplan ▸ planOf_writes_ne_nil hv
  obtain ⟨k, hk⟩ : ∃ k, n = k + 1 := Nat.exists_eq_succ_of_ne_zero (mt List.length_eq_zero_iff.mp (hplan ▸ hne))
  have hlast : k + 1 = (planOfWord s.cfg w).writes.length := by rw [hplan]; exact hk.symm
  have hall : (planOfWord s.cfg w).acked n = plan.writes.map fun x => ⟨x, .ack⟩ := by
    rw [hplan, Plan.acked, List.take_length]
  rw [hk, List.replicate_succ', List.append_assoc] at hin
  calc Host.Core.run Sys2Proof.core (n + 2) s
    _ = Host.Core.run Sys2Proof.core (2 + k) (s.sending w 0 _) := by
      rw [hk, Nat.add_comm 2 k]; exact core_run_succ (step_offer hp hne hin)
    _ = Host.Core.run Sys2Proof.core 2 (s.sending w k (Pins.ack :: Pins.take :: rest)) := by
      rw [run_sending (by omega), Nat.zero_add]; rfl
    _ = Host.Core.run Sys2Proof.core 1 ((s.sending w (k + 1) (Pins.take :: rest)).respond plan.code plan.ovf) := by
      rw [← hplan]; exact core_run_succ (step_sending_last hlast)
    _ = .next ((s.sending w (k + 1) (Pins.take :: rest)).respond plan.code plan.ovf).deliver.endEdge :=
      core_run_succ (step_take rfl rfl)
    _ = _ := by
      simp only [← hk, State.sending, hall]
      rfl

end Sys2Proof.Machine

/-! ### What the family `60_exceptions.md` needs beside the laws -/

namespace Sys2Proof.Machine

/-! ### A failed write (60_exceptions.md R124) -/

/-- The offered write failed, in full: it is logged, and the command ends with `(TransportError, 0)`. -/
theorem runSequencer_busy_err {p : Plan} {s : State} {w : Write} (hp : s.phase = .busy)
    (hw : p.writes[s.widx.toNat]? = some w) (hr : s.pins.wrReady = true) (he : s.pins.wrErr = true) :
    runSequencer p s = .next { s with wlog := s.wlog ++ [⟨w, .err⟩], phase := .resp, rsp := 3#4 } := by
  rw [runSequencer_busy_ready hp hw hr, Pins.answer_err he, State.complete_err, State.regWrite_err_respond]

/-- The write after `k` acknowledged ones fails. -/
theorem step_sending_err {s : State} {w : CmdWord} {rest : List Pins} {k : Nat} {x : Write}
    (hx : (planOfWord s.cfg w).writes[k]? = some x) :
    step (s.sending w k (Pins.nak :: rest)) =
      .next { s.sending w k rest with
        phase := .resp
        rsp   := 3#4
        wlog  := (s.sending w k rest).wlog ++ [⟨x, .err⟩]
        tick  := (s.sending w k rest).tick + 1 } := by
  obtain ⟨hk, -⟩ := List.getElem?_eq_some_iff.mp hx
  have hoffered : (planOfWord s.cfg w).writes[(s.sending w k (Pins.nak :: rest)).widx.toNat]? = some x := by
    rw [toNat_sending_widx hk, hx]
  rw [step_word rfl (commandInForce_busy rfl)]
  exact congrArg (thenNext State.endEdge) (runSequencer_busy_err rfl hoffered rfl rfl)

/-- Settles O28: acceptance, the `k` acknowledged writes by `run_sending`, the failed one, and the delivery. -/
theorem failedWriteCutsCommandShort : Obligations.FailedWriteCutsCommandShort := by
  intro s w i rest k wk hd hp plan hwk hin
  have hplan : planOfWord s.cfg w = plan := planOfWord_ok hd
  rw [← hplan] at hwk ⊢
  obtain ⟨hk, -⟩ := List.getElem?_eq_some_iff.mp hwk
  have hne : (planOfWord s.cfg w).writes ≠ [] := List.ne_nil_of_length_pos (Nat.zero_lt_of_lt hk)
  calc Host.Core.run Sys2Proof.core (k + 3) s
    _ = Host.Core.run Sys2Proof.core (2 + k) (s.sending w 0 _) := by
      rw [Nat.add_comm 2 k]; exact core_run_succ (step_offer hp hne hin)
    _ = Host.Core.run Sys2Proof.core 2 (s.sending w k (Pins.nak :: Pins.take :: rest)) := by
      rw [run_sending (by omega), Nat.zero_add]
    _ = Host.Core.run Sys2Proof.core 1 _ := core_run_succ (step_sending_err hwk)
    _ = _ := core_run_succ (step_take rfl rfl)

/-! ### Commands answered at acceptance (R122, R123, R125) -/

/-- Settles O24: acceptance only latches the word and sets the response. -/
theorem invalidChannelTouchesNothing : Obligations.InvalidChannelTouchesNothing :=
  fun _ _ hch hp hv => ⟨_, answeredAtOnce_of_not_channelValid hch hp hv, rfl,
    rspCode_packRsp .invalidChannel false, rspOvf_packRsp .invalidChannel false, rfl, rfl⟩

/-- Settles O35: the word is an illegal one, whose plan has no write to send (R65). -/
theorem illegalWordIsAnswered : Obligations.IllegalWordIsAnswered := by
  intro s hrst hp hv hrsv
  have hplan : planOfWord s.cfg s.pins.cmd = illegalPlan :=
    planOfWord_error ((decoderTotalAndRejectsOnlyReservedBits s.pins.cmd).2 hrsv)
  rw [step_word hrst (commandInForce_idle hp hv), hplan, runSequencer_idle_offer hp hv, State.accept_empty rfl]
  rfl

/-! ### The response code (R126, R127) -/

/-- Settles O26: with a valid channel the plan has the code OK, and `raw` only shows in its bytes and its flag. -/
theorem speedAndAngleNeverFail : Obligations.SpeedAndAngleNeverFail := by
  intro cfg ch raw
  refine ⟨fun ⟨h1, h2⟩ => ⟨?_, ?_⟩, fun ⟨h1, h8⟩ => ?_⟩
  · rw [planOf_motorFwd h1 h2]
  · rw [planOf_motorRev h1 h2]
  · rw [planOf_servo h1 h8]

/-- Settles O25: the two conditions of decode end the command at acceptance, a failed write ends it whatever its code,
and MOTOR.BAD answers with its own code after the last of its four writes. -/
theorem conditionsInPriorityOrder : Obligations.ConditionsInPriorityOrder := by
  refine ⟨fun s hrst hp hv hrsv => ?illegal, fun s i hrst hp hv hd hch => ?channel, fun s i hp hlt hr he => ?failed,
    fun s ch hch hp hwidx hr he => ?direction⟩
  case illegal => exact ⟨_, illegalWordIsAnswered s hrst hp hv hrsv, rfl, rfl, rfl⟩
  case channel =>
    have hstep := step_of_decode hrst (commandInForce_idle hp hv) hd
    rw [answeredAtOnce_of_not_channelValid hch hp hv, thenNext_next] at hstep
    exact ⟨_, hstep, rfl, rfl, rfl⟩
  case failed =>
    have hexec := runSequencer_busy_err hp (List.getElem?_eq_getElem hlt) hr he
    rw [← exec_eq_runSequencer] at hexec
    exact ⟨_, hexec, rfl, rfl⟩
  case direction =>
    have hlast : s.widx.toNat + 1 = (specZeroWrites ch).length := by rw [hwidx]; rfl
    obtain ⟨-, hack, -⟩ := (motorBadZeroesThenReportsDirection s ch).1 hch
    exact ⟨_, hack _ hp (List.getElem?_eq_getElem (by omega)) hr he, if_pos hlast, if_pos hlast⟩

/-! ### Delivery (R129) -/

/-- Settles O36: the sequencer delivers whatever the plan of the command in `CMDR`. -/
theorem deliveryReturnsToIdle : Obligations.DeliveryReturnsToIdle := by
  intro s hrst hp hr
  rw [step_in_flight hrst (by simp [hp]), runSequencer_resp_take hp hr]
  rfl

end Sys2Proof.Machine

/-! ### What the family `70_reset_and_hazards.md` needs beside the laws -/

namespace Sys2Proof.Machine

/-! ### The reset edge (70_reset_and_hazards.md R140, R141) -/

theorem State.offeredWrite_of_not_busy {s : State} (h : s.phase ≠ .busy) : s.offeredWrite = none := by
  match hp : s.phase with
  | .idle | .resp => simp [State.offeredWrite, hp]
  | .busy => exact absurd hp h

/-- Settles O46: the fields are those `State.resetEdge` lists, and the edge then ends. -/
theorem resetEdgeReturnsToIdle : Obligations.ResetEdgeReturnsToIdle :=
  fun _ hrst => ⟨_, step_rst hrst, rfl, rfl, rfl, rfl, rfl, rfl, rfl, rfl, rfl, rfl⟩

/-- Settles O47: what a withdrawn write leaves is `Memory.read_withdraw`, and outside Busy none is offered. -/
theorem resetChangesAtMostTheWithdrawnRegister : Obligations.ResetChangesAtMostTheWithdrawnRegister := by
  intro s t hrst h
  rw [step_rst hrst] at h
  cases h
  refine ⟨rfl, rfl, s.reg.read_withdraw _ _, fun hp => ?_⟩
  rw [State.endEdge_reg, State.resetEdge_reg, State.offeredWrite_of_not_busy hp]
  rfl

/-! ### The log from its last write to RESET on -/

/-- The entries from a write to RESET on, with no other write to RESET among them. -/
def FromReset (log : List LogEntry) : Prop :=
  ∃ e rest, log = e :: rest ∧ e.write.target = .reset ∧ ∀ x ∈ rest, x.write.target ≠ .reset

theorem FromReset.append {log new : List LogEntry} (h : FromReset log) (hnew : ∀ e ∈ new, e.write.target ≠ .reset) :
    FromReset (log ++ new) := by
  obtain ⟨e, rest, rfl, he, hrest⟩ := h
  exact ⟨e, rest ++ new, rfl, he, fun x hx => (List.mem_append.mp hx).elim (hrest x) (hnew x)⟩

/-- A log has one last write to RESET: of two such ends neither lies in the other's rest. -/
theorem FromReset.suffix_unique {log a b : List LogEntry} (ha : FromReset a) (hb : FromReset b) (hla : a <:+ log)
    (hlb : b <:+ log) : a = b := by
  obtain ⟨e, rest, rfl, he, hrest⟩ := ha
  obtain ⟨e', rest', rfl, he', hrest'⟩ := hb
  obtain h | h := List.suffix_or_suffix_of_suffix hla hlb <;> obtain h | h := List.suffix_cons_iff.mp h
  · exact h
  · exact absurd he (hrest' e (h.mem List.mem_cons_self))
  · exact h.symm
  · exact absurd he' (hrest e' (h.mem List.mem_cons_self))

/-! ### INIT and the target RESET (41_commands.md R101) -/

/-- Of INIT's writes the first alone goes to RESET. -/
theorem initPlan_target_reset_iff {cfg : Config} {k : Nat} {w : Write} (hw : (initPlan cfg).writes[k]? = some w) :
    w.target = .reset ↔ k = 0 := by
  cases k with
  | zero => cases hw; simp
  | succ k =>
    have hchip : ∀ x ∈ (initPlan cfg).writes.tail, x.target = .chip := by simp [initPlan, chipWrite]
    simp [hchip w (List.mem_of_getElem? (i := k) hw)]

theorem length_initPlan_writes (cfg : Config) : (initPlan cfg).writes.length = 7 := rfl

theorem lt_of_initPlan_getElem? {cfg : Config} {k : Nat} {w : Write} (hw : (initPlan cfg).writes[k]? = some w) :
    k < 7 := (List.getElem?_eq_some_iff.mp hw).1

theorem length_initPlan_acked {cfg : Config} {k : Nat} (hk : k ≤ 7) : ((initPlan cfg).acked k).length = k := by
  rw [Plan.acked, List.length_map, List.length_take]
  exact Nat.min_eq_left hk

theorem Plan.answer_of_mem_acked {p : Plan} {k : Nat} {e : LogEntry} (h : e ∈ p.acked k) : e.answer = .ack := by
  obtain ⟨w, -, rfl⟩ := List.mem_map.mp h
  rfl

/-- What an INIT has sent once a write of its list is answered opens with the list's one write to RESET. -/
theorem initPlan_fromReset {cfg : Config} {k : Nat} {w : Write} (hw : (initPlan cfg).writes[k]? = some w) (a : Answer) :
    FromReset ((initPlan cfg).acked k ++ [⟨w, a⟩]) := by
  induction k generalizing w a with
  | zero => exact ⟨⟨w, a⟩, [], rfl, (initPlan_target_reset_iff hw).mpr rfl, nofun⟩
  | succ k ih =>
    have hk : k < (initPlan cfg).writes.length := Nat.lt_of_succ_lt (List.getElem?_eq_some_iff.mp hw).1
    have hprev := List.getElem?_eq_getElem hk
    rw [Plan.acked_succ hprev]
    exact (ih hprev .ack).append (by simp [initPlan_target_reset_iff hw])

theorem initPlan_acked_fromReset {cfg : Config} {k : Nat} (h0 : k ≠ 0) (h7 : k ≤ 7) :
    FromReset ((initPlan cfg).acked k) := by
  obtain ⟨j, rfl⟩ := Nat.exists_eq_succ_of_ne_zero h0
  have hj := List.getElem?_eq_getElem (l := (initPlan cfg).writes) (i := j) h7
  exact Plan.acked_succ hj ▸ initPlan_fromReset hj .ack

/-- No command but INIT writes to RESET (20_memory.md R41). -/
theorem target_ne_reset_of_not_init {cfg : Config} {c : CmdWord} {w : Write} (h : decode c ≠ .ok .init)
    (hw : w ∈ (planOfWord cfg c).writes) : w.target ≠ .reset := by
  match hd : decode c with
  | .error _ => rw [planOfWord_error hd] at hw; cases hw
  | .ok i =>
    have hi : i ≠ .init := fun hinit => h (hinit ▸ hd)
    have hchip : w.target = .chip := by
      rw [planOfWord_ok hd] at hw
      obtain ⟨m, hm⟩ | ⟨ch, raw, rfl⟩ := exists_motorOf_or_servo hi
      · obtain ⟨-, htarget, -⟩ := motor_write_target_reg hm hw
        exact htarget
      · obtain ⟨-, htarget, -⟩ := servo_write_target_reg hw
        exact htarget
    simp [hchip]

/-- A block that is not sending an INIT offers no write to RESET. -/
theorem State.offeredWrite_target_ne_reset {s : State} {w : Write} (hs : ¬ s.sendingInit)
    (hw : s.offeredWrite = some w) : w.target ≠ .reset := by
  have hp : s.phase = .busy := by
    by_contra hp
    simp [State.offeredWrite_of_not_busy hp] at hw
  rw [State.offeredWrite_of_busy hp] at hw
  exact target_ne_reset_of_not_init (fun hd => hs ⟨hp, hd⟩) (List.mem_of_getElem? hw)

/-! ### The premise on the chip's timing (70_reset_and_hazards.md R143, R145) -/

/-- A step's new log entry and its new withdrawn write are the offered write. -/
theorem step_records {s t : State} (h : step s = .next t) :
    (∃ new, t.wlog = s.wlog ++ new ∧ ∀ e ∈ new, s.offeredWrite = some e.write) ∧
      ∃ cuts, t.withdrawn = s.withdrawn ++ cuts ∧ ∀ c ∈ cuts, c.sent = s.wlog.length ∧ s.offeredWrite = some c.write := by
  constructor
  · obtain hlog | ⟨w, -, -, hw, hlog⟩ := logGainsTheOfferedWrite s t h
    · exact ⟨[], by simp [hlog], nofun⟩
    · exact ⟨_, hlog, by simp [hw]⟩
  · cases step_next_cases h with
    | rst => exact ⟨_, rfl, by simp +contextual [eq_comm]⟩
    | accept | hold | ack | err | deliver => exact ⟨[], by simp, nofun⟩

/-- The premise outlives a step of a block that sends no INIT: what the records gain is no write to RESET, and comes
after the INIT. -/
theorem State.chipTimingDefined.of_step {s t : State} (hs : s.chipTimingDefined) (h : step s = .next t)
    (ht : ¬ t.sendingInit) : t.chipTimingDefined := by
  obtain ⟨hidle, before, after, hlog, hafter, hcuts⟩ := hs
  obtain ⟨⟨new, hnewlog, hnew⟩, cuts, hnewcuts, hcut⟩ := step_records h
  refine ⟨ht, before, after ++ new, ?_, fun e he => ?_, fun c hc => ?_⟩
  · rw [configurationIsImmutable s t h, hnewlog, hlog, List.append_assoc _ after new]
  · exact (List.mem_append.mp he).elim (hafter e) fun he => State.offeredWrite_target_ne_reset hidle (hnew e he)
  · rw [hnewcuts] at hc
    obtain hc | hc := List.mem_append.mp hc
    · exact hcuts c hc
    · obtain ⟨hsent, hw⟩ := hcut c hc
      refine fun _ => ⟨?_, State.offeredWrite_target_ne_reset hidle hw⟩
      rw [hsent, hlog, List.length_append, List.length_append, length_initPlan_acked (Nat.le_refl 7)]
      exact Nat.le_add_right _ _

/-- A whole INIT just acknowledged: it is the end of the log, and every withdrawn write came before it. -/
theorem State.DoneInv.chipTimingDefined {s : State} (h : s.DoneInv) (hp : s.phase = .resp)
    (hd : decode s.cmdr = .ok .init) : s.chipTimingDefined := by
  have hplan : s.plan = initPlan s.cfg := planOfWord_ok hd
  have hidle : ¬ s.sendingInit := fun ⟨hbusy, _⟩ => by simp [hp] at hbusy
  obtain ⟨before, hlog⟩ := h.log
  have hcuts := h.cuts
  rw [hplan, length_initPlan_writes] at hlog hcuts
  refine ⟨hidle, before, [], by rw [hlog, List.append_nil], nofun, fun c hc hlate => ?_⟩
  have hearly := hcuts c hc
  rw [← hlog, List.length_append, length_initPlan_acked (Nat.le_refl 7)] at hearly
  omega

/-- Settles O57: after the answer OK the whole list stands at the end of the log, and a step keeps the premise by
`State.chipTimingDefined.of_step`. -/
theorem initDefinesChipTiming : Obligations.InitDefinesChipTiming :=
  ⟨fun _ hi hp hd hcode => (doneInv_of_rspCode hi hp hd (.inl hcode)).1.chipTimingDefined hp hd,
    fun _ _ hs h ht => hs.of_step h ht⟩

/-- Under the premise the log from its last write to RESET on is a whole INIT and what came after. -/
theorem State.chipTimingDefined.eq_of_fromReset {s : State} (hs : s.chipTimingDefined) {log : List LogEntry}
    (hr : FromReset log) (hlog : log <:+ s.wlog) : ∃ after, log = (initPlan s.cfg).acked 7 ++ after := by
  obtain ⟨-, before, after, hall, hafter, -⟩ := hs
  have hwhole := (initPlan_acked_fromReset (cfg := s.cfg) (by decide) (Nat.le_refl 7)).append hafter
  exact ⟨after, hr.suffix_unique hwhole hlog ⟨before, by rw [hall, List.append_assoc]⟩⟩

/-- A reset edge that withdraws a write to RESET, which may have landed, ends the premise (R141). -/
theorem not_chipTimingDefined_of_withdrawn_reset {s : State} {w : Write} (hw : s.offeredWrite = some w)
    (ht : w.target = .reset) : ¬ s.resetEdge.endEdge.chipTimingDefined := by
  rintro ⟨-, before, after, hlog, -, hcuts⟩
  have hsent := congrArg List.length hlog
  simp only [State.endEdge_wlog, State.resetEdge_wlog, List.length_append] at hsent
  rw [length_initPlan_acked (Nat.le_refl 7)] at hsent
  have hlate : before.length < s.wlog.length := by omega
  obtain ⟨-, hchip⟩ := hcuts ⟨w, s.wlog.length⟩ (by simp [hw]) hlate
  exact hchip ht

/-- A log that ends in the first writes of an INIT, at least one but not all of them, has no whole INIT after its last
write to RESET. -/
theorem not_chipTimingDefined_of_acked {s : State} {k : Nat} (h0 : k ≠ 0) (h7 : k < 7)
    (hlog : (initPlan s.cfg).acked k <:+ s.wlog) : ¬ s.chipTimingDefined := by
  intro hs
  obtain ⟨after, heq⟩ := hs.eq_of_fromReset (initPlan_acked_fromReset h0 h7.le) hlog
  have hlength := congrArg List.length heq
  rw [List.length_append, length_initPlan_acked h7.le, length_initPlan_acked (Nat.le_refl 7)] at hlength
  omega

/-- Nor has one that ends in an INIT whose write `k` failed: up to write 5 it is too short, and at write 6 a whole INIT
has an acknowledgement. -/
theorem not_chipTimingDefined_of_failed {s : State} {k : Nat} {w : Write} (hw : (initPlan s.cfg).writes[k]? = some w)
    (hlog : (initPlan s.cfg).acked k ++ [⟨w, .err⟩] <:+ s.wlog) : ¬ s.chipTimingDefined := by
  intro hs
  have hk := lt_of_initPlan_getElem? hw
  obtain ⟨after, heq⟩ := hs.eq_of_fromReset (initPlan_fromReset hw .err) hlog
  have hlength := congrArg List.length heq
  rw [List.length_append, List.length_append, length_initPlan_acked hk.le, length_initPlan_acked (Nat.le_refl 7),
    List.length_singleton] at hlength
  obtain rfl : after = [] := List.length_eq_zero_iff.mp (by omega)
  have hmem : (⟨w, .err⟩ : LogEntry) ∈ (initPlan s.cfg).acked 7 := by
    rw [← List.append_nil (Plan.acked _ 7), ← heq]
    simp
  cases Plan.answer_of_mem_acked hmem

/-- Settles O59: with the first write offered the reset edge withdraws a write to RESET, later the log ends in an INIT
sent in part, and after TransportError in a failed one. -/
theorem cutInitEndsChipTiming : Obligations.CutInitEndsChipTiming := by
  refine ⟨fun s t hi hsend hrst h => ?cut, fun s hi hp hd hcode => ?failed⟩
  case cut =>
    rw [step_rst hrst] at h
    cases h
    obtain ⟨hp, hd⟩ := hsend
    have hplan : s.plan = initPlan s.cfg := planOfWord_ok hd
    obtain ⟨w, hw⟩ := hi.exists_write_of_busy hp
    have hoffered := (State.offeredWrite_of_busy hp).trans hw
    have hlog := (hi.busy hp).log
    rw [hplan] at hw hlog
    by_cases h0 : s.widx.toNat = 0
    · exact not_chipTimingDefined_of_withdrawn_reset hoffered ((initPlan_target_reset_iff hw).mpr h0)
    · exact not_chipTimingDefined_of_acked (s := s.resetEdge.endEdge) h0 (lt_of_initPlan_getElem? hw) hlog
  case failed =>
    have hplan : s.plan = initPlan s.cfg := planOfWord_ok hd
    obtain hdone | hfailed := hi.resp hp
    · rw [hdone.rsp, rspCode_packRsp, hplan] at hcode
      exact absurd hcode (show RespCode.ok.bits ≠ 3#3 by decide)
    · obtain ⟨w, hw, hlog⟩ := hfailed.log
      rw [hplan] at hw hlog
      exact not_chipTimingDefined_of_failed hw hlog

/-! ### A motor's pairs in mid-command (70_reset_and_hazards.md R146) -/

/-- Each write of a plan to the register pair at `lo` is of a zero byte. -/
def Plan.onlyZeroes (p : Plan) (lo : RegAddr) : Prop := ∀ w ∈ p.writes, w.reg = lo ∨ w.reg = lo + 1 → w.data = 0#8

theorem motorFwd_onlyZeroes {cfg : Config} {m : Nat} (h1 : 1 ≤ m) (h2 : m ≤ cfg.nMotor) (raw : Int) :
    (planOf cfg (.motorFwd m raw)).onlyZeroes (specMotorReg m 4) := by
  rw [planOf_motorFwd h1 h2, specMotorReg_four]
  simp [Plan.onlyZeroes, chipWrite, BitVec.add_assoc]

theorem motorRev_onlyZeroes {cfg : Config} {m : Nat} (h1 : 1 ≤ m) (h2 : m ≤ cfg.nMotor) (raw : Int) :
    (planOf cfg (.motorRev m raw)).onlyZeroes (specMotorReg m 0) := by
  rw [planOf_motorRev h1 h2, specMotorReg_zero]
  simp [Plan.onlyZeroes, chipWrite]

/-- A register that holds 0 and to which a command writes nothing but 0 still holds 0 after an edge of that command. -/
theorem exec_keeps_zero {i : Instr} {s t : State} {a : RegAddr} (h : exec i s = .next t)
    (ha : ∀ w ∈ (planOf s.cfg i).writes, w.reg = a → w.data = 0#8) (hzero : s.reg.read a.toNat = some 0#8) :
    t.reg.read a.toNat = some 0#8 := by
  cases exec_next_cases h with
  | quiet | accept | wait | err | hold | deliver => simpa using hzero
  | ack w _ hw =>
    rw [State.advance_reg, State.regWrite_reg]
    by_cases hreg : w.target = .chip ∧ w.reg = a
    · obtain ⟨htarget, rfl⟩ := hreg
      rw [s.reg.read_apply_same htarget, ha w (List.mem_of_getElem? hw) rfl]
    · rw [s.reg.read_apply_other .ack fun htarget heq => hreg ⟨htarget, BitVec.eq_of_toNat_eq heq⟩, hzero]

theorem exec_keeps_pairZero {i : Instr} {s t : State} {lo : RegAddr} (h : exec i s = .next t)
    (hlo : (planOf s.cfg i).onlyZeroes lo) (hzero : pairZero s.reg lo) : pairZero t.reg lo :=
  ⟨exec_keeps_zero h (fun w hw hreg => hlo w hw (.inl hreg)) hzero.1,
    exec_keeps_zero h (fun w hw hreg => hlo w hw (.inr hreg)) hzero.2⟩

/-- Settles O55: a command writes nothing but zeros to the pair of the other direction. -/
theorem offThenNewDirectionIsClean : Obligations.OffThenNewDirectionIsClean := fun _ _ _ raw _ ⟨h1, h2⟩ =>
  ⟨fun h => exec_keeps_pairZero h (motorFwd_onlyZeroes h1 h2 raw),
    fun h => exec_keeps_pairZero h (motorRev_onlyZeroes h1 h2 raw)⟩

/-- `REG` after a PWM value was sent to the register pair at `lo`, low byte first. -/
def Memory.writePwm (m : Memory) (lo : RegAddr) (pwm : Pwm) : Memory :=
  (m.write lo.toNat (lowByte pwm)).write (lo + 1).toNat (highMotor pwm)

/-- One of the two bytes of a non-zero value is non-zero (40_datapath.md R86). -/
theorem pairNonzero_writePwm (m : Memory) (lo : RegAddr) {pwm : Pwm} (h : pwm.toNat ≠ 0) :
    pairNonzero (m.writePwm lo pwm) lo := by
  have hlow : (m.writePwm lo pwm).read lo.toNat = some (lowByte pwm) := by
    rw [Memory.writePwm, Memory.read_write_other _ _ (by bv_omega), Memory.read_write_same]
  have hhigh : (m.writePwm lo pwm).read (lo + 1).toNat = some (highMotor pwm) := Memory.read_write_same ..
  by_cases h0 : lowByte pwm = 0#8
  · refine ⟨highMotor pwm, fun h1 => h ?_, .inr hhigh⟩
    have hlow0 := toNat_lowByte pwm
    have hhigh0 := toNat_highMotor pwm
    rw [h0] at hlow0
    rw [h1] at hhigh0
    simp only [BitVec.toNat_ofNat] at hlow0 hhigh0
    omega
  · exact ⟨lowByte pwm, h0, .inl hlow⟩

/-- The two pairs of a motor stand four registers apart (20_memory.md R43), so sending to one leaves the other. -/
theorem pairNonzero_writePwm_other {m : Memory} {lo other : RegAddr} (pwm : Pwm) (h : lo = other + 4 ∨ other = lo + 4)
    (hother : pairNonzero m other) : pairNonzero (m.writePwm lo pwm) other := by
  have hread (a : RegAddr) (ha : a = other ∨ a = other + 1) :
      (m.writePwm lo pwm).read a.toNat = m.read a.toNat := by
    rw [Memory.writePwm, Memory.read_write_other _ _ (by bv_omega), Memory.read_write_other _ _ (by bv_omega)]
  rw [pairNonzero, hread other (.inl rfl), hread (other + 1) (.inr rfl)]
  exact hother

/-- A command that first sends a non-zero PWM value to the pair at `lo` drives both pairs once these two writes are
acknowledged, if the other pair was not zero before. -/
theorem run_drives_both_pairs {s : State} {w : CmdWord} {rest : List Pins} {lo other : RegAddr} {pwm : Pwm}
    {x y : Write} (hp : s.phase = .idle) (hin : s.inbox = Pins.offer w :: Pins.ack :: Pins.ack :: rest)
    (hwrites : (planOfWord s.cfg w).writes = [chipWrite lo (lowByte pwm), chipWrite (lo + 1) (highMotor pwm), x, y])
    (hpwm : pwm.toNat ≠ 0) (hapart : lo = other + 4 ∨ other = lo + 4) (hother : pairNonzero s.reg other) :
    ∃ t : State, Host.Core.run Sys2Proof.core 3 s = .next t ∧ t.phase = .busy ∧
      pairNonzero t.reg lo ∧ pairNonzero t.reg other := by
  have hrun : Host.Core.run Sys2Proof.core 3 s = .next (s.sending w 2 rest) :=
    (core_run_succ (step_offer hp (by simp [hwrites]) hin)).trans
      (run_sending (n := 0) (k := 0) (j := 2) (by simp [hwrites]))
  have hreg : (s.sending w 2 rest).reg = s.reg.writePwm lo pwm := by
    rw [State.sending, Plan.acked, hwrites]
    rfl
  refine ⟨_, hrun, rfl, ?_, ?_⟩ <;> rw [hreg]
  · exact pairNonzero_writePwm s.reg lo hpwm
  · exact pairNonzero_writePwm_other pwm hapart hother

/-- Settles O54: both commands send the new value first, and only then zero the other pair. -/
theorem reversalDrivesBothPairs : Obligations.ReversalDrivesBothPairs := by
  intro s w m raw rest _ ⟨h1, h2⟩ hp hpwm hin
  have hnext : addrMotor m + 4 + 1 = addrMotor m + 5 := BitVec.add_assoc _ _ _
  rw [specMotorReg_zero, specMotorReg_four]
  refine ⟨fun hd hfwd => ?_, fun hd hrev => ?_⟩
  · have hplan := (planOfWord_ok (cfg := s.cfg) hd).trans (planOf_motorRev h1 h2 raw)
    rw [← hnext] at hplan
    obtain ⟨t, hrun, hbusy, hnew, hold⟩ :=
      run_drives_both_pairs hp hin (congrArg Plan.writes hplan) hpwm (.inl rfl) hfwd
    exact ⟨t, hrun, hbusy, hold, hnew⟩
  · have hplan := (planOfWord_ok (cfg := s.cfg) hd).trans (planOf_motorFwd h1 h2 raw)
    exact run_drives_both_pairs hp hin (congrArg Plan.writes hplan) hpwm (.inr rfl) hrev

/-! ### SERVO between its two writes (70_reset_and_hazards.md R147) -/

theorem specServoReg_zero_ne_one (c : Nat) : (specServoReg c 1).toNat ≠ (specServoReg c 0).toNat := by
  rw [specServoReg_zero, specServoReg_one]
  bv_omega

/-- Settles O56: the first write of SERVO is its low byte alone, and one more is to come. -/
theorem tornServoValueIsVisible : Obligations.TornServoValueIsVisible := by
  intro s c raw hc hp hwidx hr he
  obtain ⟨-, hack, -⟩ := (servoSendsLowThenHigh s c raw).1 hc
  refine ⟨_, hack (toChip (specServoReg c 0) (specPwmServo s.cfg raw % 256)) hp (by rw [hwidx]; rfl) hr he, ?_, ?_, ?_⟩
  · simp [hwidx]
  · exact Memory.read_write_same ..
  · exact Memory.read_write_other _ _ (specServoReg_zero_ne_one c)

end Sys2Proof.Machine
